-- ==== Sys2Proof/Word.lean ====
section
/-! DEFINITION. The widths of the block's values (spec 00_scope section 5.1, 10_state R10, 30_encoding R44 to R48). -/

namespace Sys2Proof

/-- `u8`: a received byte, the accumulator, a checksum byte. -/
abbrev Byte := BitVec 8

/-- `u16`: the divider, the port `cfg_divider`. -/
abbrev U16 := BitVec 16

/-- `INT_WIDTH` (R5): the value in the table, which is also the least that R5 allows. -/
abbrev intWidth : Nat := 32

/-- `i32`: two's complement (00_scope 5.1); the measurement latches and what `Meas` carries (R10, R16). -/
abbrev I32 := BitVec intWidth

/-- Format EV: the event word `ev[10:0]` (R44). -/
abbrev EventWord := BitVec 11

/-- Format FR19: 19 bytes as one number, byte 0 the most significant (R47). -/
abbrev FrameWord := BitVec 152

/-- Format TX10: 10 bytes as one number, the first byte the most significant (R48). -/
abbrev InitWord := BitVec 80

/-- A frame offset, 0 to 18; the type of `CNT` (R12, 93 U4). -/
abbrev Offset := Fin 19

end Sys2Proof
end

