-- ==== Sys2Proof/Config.lean ====
section
/-! DEFINITION. The configuration record of 00_scope R4, R5 and R6: the literals of the frame and of the decoder as
named fields, whose defaults are the spec's values (92 D18). The literals are the source's and unaudited (R7): log 14. -/

namespace Sys2Proof

/-- 00_scope R4 and R5, one field per row of their tables (92 D18). It is no state but a parameter of the step (R8,
10_state R10). -/
structure Cfg where
  frameSize : Nat := 19
  startMarker : Byte := 0xFA
  stopMarker : Byte := 0xF8
  payFirst : Nat := 1
  payLast : Nat := 16
  chkOffset : Nat := 17
  stopOffset : Nat := 18
  curOffset : Nat := 2
  voltOffset : Nat := 4
  fieldRadix : Nat := 256
  corrMul : Int := 16
  vBias : Int := 320
  vCorrBias : Int := 5120
  voltDivisor : Nat := 1000
  intWidth : Nat := Sys2Proof.intWidth
  deriving DecidableEq, Repr

/-- R7, D19: only a frame size of 19 has a meaning. -/
def Cfg.frameSizeOk (cfg : Cfg) : Bool := cfg.frameSize == 19

/-- R5: `INT_WIDTH` is at least 32. -/
def Cfg.intWidthOk (cfg : Cfg) : Bool := decide (Sys2Proof.intWidth ≤ cfg.intWidth)

/-- The configurations that are not refused. DESIGN CHOICE (log 20): nothing else is asked of the offsets, the radix or
the divisor; what the model does under values that the rules of the spec do not reach is named there. -/
def Cfg.supported (cfg : Cfg) : Bool := cfg.frameSizeOk && cfg.intWidthOk

/-- The configuration of the block: the values of R4 and R5. The host's step runs under it. -/
def Config.cfg : Cfg := {}

/-- `INIT_SEQ` (R6, 30_encoding R48): the ten bytes, first byte sent first. -/
def Config.initSeq : List Byte := [0xFA, 0x05, 0x00, 0x00, 0x00, 0x00, 0x00, 0x00, 0x05, 0xF8]

/-- The divider that `State.reset` has sampled. DESIGN CHOICE, log 1, unsafe: the spec leaves `CURRENT_DIVIDER` open (R6, D32). -/
def Config.resetDivider : U16 := 1000

end Sys2Proof
end

