-- ==== Sys2Proof/Syntax.lean ====
section
/-! DEFINITION. The operations of spec/opcode_table.json as data, and the three formats in which they are presented
(30_encoding R44, R46, R48, R57). -/

namespace Sys2Proof

/-- One constructor per row of the opcode table (30_encoding R57). -/
inductive Instr where
  /-- RST (R60): the divider is the side input `cfg_divider`, which is no part of the word (R44). -/
  | rst
  /-- RXF (R61). -/
  | rxf
  /-- RXB (R62): `d` is the received byte. -/
  | rxb (d : Byte)
  /-- IDLE (R59). -/
  | idle
  /-- RXB.START (R63): the form of RXB that `CNT` = 0 selects. -/
  | rxbStart (d : Byte)
  /-- RXB.PAY (R64): the form that `CNT` 1 to 16 selects. -/
  | rxbPay (d : Byte)
  /-- RXB.CHK (R65): the form that `CNT` = 17 selects. -/
  | rxbChk (d : Byte)
  /-- RXB.STOP (R66): the form that `CNT` = 18 selects. -/
  | rxbStop (d : Byte)
  /-- FRAME (R46, R56): payload bytes for offsets 1 to 16 and the checksum byte as sent. -/
  | frame (p : List Byte) (c : Byte)
  /-- INIT (R48, R128): the initialisation sequence. -/
  | init
  deriving DecidableEq, Repr

/-- What one input item carries, before it is decoded. -/
inductive Wire where
  /-- An event word at the ports rst, rx_fail, rx_valid, rx_data (R44). -/
  | ev (w : EventWord)
  /-- Nineteen bytes in format FR19 (R46). -/
  | fr19 (w : FrameWord)
  /-- Ten bytes in format TX10 (R48). -/
  | tx10 (w : InitWord)
  /-- Bits of a width, or with a value, that none of the three formats has (log 12). -/
  | other (nbits w : Nat)
  deriving DecidableEq, Repr

/-- Why presented bits are no operation (log 12). -/
inductive DecodeError where
  /-- Nineteen bytes whose first or last byte is not the marker that the pattern of R47 fixes. -/
  | notAFrame
  /-- Ten bytes that are not the constant of R48. -/
  | notInit
  /-- Bits that have none of the formats EV, FR19, TX10. -/
  | noSuchFormat
  deriving DecidableEq, Repr

end Sys2Proof
end

