-- ==== Sys2Proof/WellFormed.lean ====
section
/-! DEFINITION. What the operands of an operation must satisfy beyond their types. -/

namespace Sys2Proof

/-- R46, R56: a frame has exactly 16 payload bytes. Every other operand is well formed by its type. -/
def Instr.wellFormed : Instr → Bool
  | .rst => true
  | .rxf => true
  | .rxb _ => true
  | .idle => true
  | .rxbStart _ => true
  | .rxbPay _ => true
  | .rxbChk _ => true
  | .rxbStop _ => true
  | .frame p _ => p.length == 16
  | .init => true

end Sys2Proof
end

