-- ==== Sys2Proof/Decode.lean ====
section
/-! DEFINITION. The decoder of the three formats, total and rejecting by name, and the encoder (30_encoding R44 to R49,
R55 to R57). The four positional forms of RXB have RXB's words: the decoder gives RXB, and the state selects the form
(R57, R62; log 8). -/

namespace Sys2Proof

/-- R45, R58: `rst` over `rx_fail` over `rx_valid`. -/
def decodeEvent (w : EventWord) : Instr :=
  if w.getLsbD 10 then .rst
  else if w.getLsbD 9 then .rxf
  else if w.getLsbD 8 then .rxb (w.extractLsb' 0 8)
  else .idle

/-- The byte at frame offset `i` of an FR19 word: byte 0 is the most significant (R47). -/
def frameByte (w : FrameWord) (i : Nat) : Byte := w.extractLsb' (8 * (18 - i)) 8

/-- R47: the two marker bytes are fixed, everything between is operand. -/
def decodeFrame (cfg : Cfg) (w : FrameWord) : Except DecodeError Instr :=
  if frameByte w 0 = cfg.startMarker ∧ frameByte w 18 = cfg.stopMarker then
    .ok (.frame ((List.range 16).map fun k => frameByte w (k + 1)) (frameByte w 17))
  else .error .notAFrame

/-- Bytes in order of arrival as one number, the first byte the most significant (R47, R48). -/
def packBytes (n : Nat) (bs : List Byte) : BitVec n :=
  bs.foldl (fun w b => (w <<< 8) ||| b.setWidth n) 0

/-- R48, R49: ten opaque bytes, no field. -/
def decodeInit (w : InitWord) : Except DecodeError Instr :=
  if w = packBytes 80 Config.initSeq then .ok .init else .error .notInit

/-- The operation that presented bits stand for, under a configuration: it fixes the markers of FRAME. -/
def decode (cfg : Cfg) : Wire → Except DecodeError Instr
  | .ev w => .ok (decodeEvent w)
  | .fr19 w => decodeFrame cfg w
  | .tx10 w => decodeInit w
  | .other _ _ => .error .noSuchFormat

/-- The nineteen bytes of a frame in order of arrival (R46, R56). -/
def frameBytes (cfg : Cfg) (p : List Byte) (c : Byte) : List Byte :=
  cfg.startMarker :: p ++ [c, cfg.stopMarker]

/-- The words of an operation: of an event the one that R55 writes, ignored bits 0. -/
def encode (cfg : Cfg) : Instr → Wire
  | .rst => .ev 0x400
  | .rxf => .ev 0x200
  | .rxb d => .ev (0x100 ||| d.setWidth 11)
  | .idle => .ev 0x000
  | .rxbStart d => .ev (0x100 ||| d.setWidth 11)
  | .rxbPay d => .ev (0x100 ||| d.setWidth 11)
  | .rxbChk d => .ev (0x100 ||| d.setWidth 11)
  | .rxbStop d => .ev (0x100 ||| d.setWidth 11)
  | .frame p c => .fr19 (packBytes 152 (frameBytes cfg p c))
  | .init => .tx10 (packBytes 80 Config.initSeq)

/-- The operation that an operation's own words decode to: itself, but for the positional forms, whose words are
RXB's (R57). -/
def Instr.onWire : Instr → Instr
  | .rst => .rst
  | .rxf => .rxf
  | .rxb d => .rxb d
  | .idle => .idle
  | .rxbStart d => .rxb d
  | .rxbPay d => .rxb d
  | .rxbChk d => .rxb d
  | .rxbStop d => .rxb d
  | .frame p c => .frame p c
  | .init => .init

/-- The format that `nbits` bits of value `w` have: an event word has 11 bits, which the opcode table counts in whole
bytes as 16; FRAME 152; INIT 80. `w` is the number as the table's match column writes it (log 11). -/
def wireOfBits (nbits w : Nat) : Wire :=
  if (nbits = 16 ∨ nbits = 11) ∧ w < 2 ^ 11 then .ev (BitVec.ofNat 11 w)
  else if nbits = 152 ∧ w < 2 ^ 152 then .fr19 (BitVec.ofNat 152 w)
  else if nbits = 80 ∧ w < 2 ^ 80 then .tx10 (BitVec.ofNat 80 w)
  else .other nbits w

/-- The operation the block's decoder reads from `nbits` bits of value `w`. -/
def decodeTableWord (nbits w : Nat) : Option Instr :=
  match decode Config.cfg (wireOfBits nbits w) with
  | .ok i => some i
  | .error _ => none

end Sys2Proof
end

