-- ==== Sys2Proof/Machine/State.lean ====
section
/-! DEFINITION. The state of the block (10_state R10), the model's own fields beside it, what a step can stop with, and
the state after reset (10_state R27). -/

namespace Sys2Proof.Machine

/-- `MODE` (R11). -/
inductive Mode where
  | running
  | terminated
  deriving DecidableEq, Repr

/-- `ERR` (R15, 60_exceptions R101): the five codes that are ever produced (93 U4). -/
inductive Err where
  | noError
  | transportError
  | invalidStartByte
  | invalidStopByte
  | invalidChecksum
  deriving DecidableEq, Repr

/-- The errors that a `Fatal` output can carry (00_scope 5.3). -/
inductive FatalCause where
  | transportError
  | invalidStartByte
  | invalidStopByte
  deriving DecidableEq, Repr

/-- The output of one event (00_scope 5.3). -/
inductive Output where
  /-- `None`. -/
  | none
  /-- `Meas(cur_num, volt_num, chk, div)` (42_frame_validator R84). -/
  | meas (curNum voltNum : I32) (chk : Byte) (div : U16)
  /-- `Diag(InvalidChecksum, computed, received)` (R83). -/
  | diag (computed received : Byte)
  /-- `Fatal(e, info)` (60_exceptions R102). -/
  | fatal (e : FatalCause) (info : Byte)
  deriving DecidableEq, Repr

/-- An exception with what it reports (60_exceptions R100, R102, R104 to R107). -/
inductive Exc where
  /-- R104: the number of bytes of the frame received so far. -/
  | transportError (received : Byte)
  /-- R105: the byte found at offset 0. -/
  | invalidStartByte (found : Byte)
  /-- R106: the byte found at offset 18. -/
  | invalidStopByte (found : Byte)
  /-- R107: the computed and the received checksum. -/
  | invalidChecksum (computed received : Byte)
  deriving DecidableEq, Repr

/-- The positional forms of RXB (40_input_stage R62). -/
inductive Form where
  | start
  | pay
  | chk
  | stop
  deriving DecidableEq, Repr

/-- One sampling instant at the inputs (10_state R23): the presented bits and the level of the port `cfg_divider`. -/
structure Item where
  wire : Wire
  cfgDivider : U16
  deriving DecidableEq, Repr

/-- The frame buffer as memory: (offset, byte) cells, offsets strictly rising; an offset without a cell has never been
written and has no value (20_memory R28, 93 U2; log 5). Which cells a rule can read is `State.bufWritten`. -/
abbrev Memory := List Host.Cell

/-- What stops the machine. -/
inductive Fault where
  /-- Raised by a read of frame offset `a` when nothing has written it since the last RST (10_state R21, 93 U2: "`fault`
  on read"). Safe: the spec gives such a byte no value. -/
  | unwrittenByte (a : Nat)
  /-- Raised by a read of an offset `a` beyond 18, which no access of the spec can make (20_memory R39: "there is no
  out-of-range fault to define"). DESIGN CHOICE (log 5), safe: only a configuration with an offset beyond 18 makes the
  verdict read one (log 20). -/
  | offsetOutOfRange (a : Nat)
  deriving DecidableEq, Repr

/-- Why an operation has no meaning in a state. -/
inductive Refusal where
  /-- An operation without a meaning; raised only by a refused arm of `exec`. Safe. -/
  | notModelled (mnemonic : String)
  /-- Raised by every event but RST before the first RST (70_reset R123, 93 U1: "refuse"). Safe. -/
  | notReset
  /-- Raised by RST with `cfg_divider` = 0 (10_state R18, 93 U3: "refuse"). Safe. -/
  | zeroDivider
  /-- Raised by a positional form in Running at a `CNT` that selects another form (R62 to R66; log 8). Safe. -/
  | formNotSelected
  /-- Raised by the step on presented bits that the decoder rejects (log 12). Safe. -/
  | undecodable (e : DecodeError)
  /-- Raised by the step under a configuration whose FRAME_SIZE is not 19 (00_scope R7, 93 U6: "refuse"). Safe. -/
  | frameSizeNot19
  /-- Raised by the step under a configuration whose INT_WIDTH is below the minimum of 00_scope R5 (log 14). Safe. -/
  | intWidthBelow32
  deriving DecidableEq, Repr

/-- The state of the block, in the order of R10, and then the model's own fields. -/
structure State where
  /-- `MODE` (R11). -/
  mode : Mode
  /-- `CNT` (R12). -/
  cnt : Offset
  /-- `BUF[0..18]` (R13). -/
  buf : Memory
  /-- `ACC` (R14). -/
  acc : Byte
  /-- `ERR` (R15). -/
  err : Err
  /-- `DIV` (R18). -/
  div : U16
  /-- `M_VALID` (R17). -/
  mValid : Bool
  /-- `M_CUR` (R16). -/
  mCur : I32
  /-- `M_VOLT` (R16). -/
  mVolt : I32
  /-- `M_CHK` (R16). -/
  mChk : Byte
  /-- Model: which offsets of `BUF` have been written since the last RST; only those have a value (R21, 93 U2; log 6). -/
  bufWritten : Vector Bool 19
  /-- Model: an RST has been taken since power-on (R123; log 7). -/
  rstSeen : Bool
  /-- Model: the level on the input port `cfg_divider` (R23; log 1). -/
  cfgDivider : U16
  /-- Model: what is still to be presented at the inputs, next first (R8; log 2). -/
  input : List Item
  /-- Model: the outputs emitted so far, oldest first (R8, R24; log 4). -/
  output : List Output
  /-- Model: the bytes the host has had the transport write, oldest first (R128; log 10). -/
  sent : List Byte
  deriving DecidableEq, Repr

/-- The outcome of a step or of a meaning. -/
abbrev Result := Host.Outcome State Fault Refusal

/-- The machine right after an RST (R27, R60), with nothing still to be presented. `DIV` and the port hold the model's
divider (log 1); the one output is that RST's `None` (log 4). -/
def State.reset : State where
  mode := .running
  cnt := 0
  buf := []
  acc := 0x00
  err := .noError
  div := Config.resetDivider
  mValid := false
  mCur := 0
  mVolt := 0
  mChk := 0x00
  bufWritten := Vector.replicate 19 false
  rstSeen := true
  cfgDivider := Config.resetDivider
  input := []
  output := [.none]
  sent := []

end Sys2Proof.Machine
end

