-- ==== Sys2Proof/Machine/Ops.lean ====
section
/-! DEFINITION. The named operations that the meanings share: frame-buffer access, the outputs, the checksum fold, taking
an exception and the RST that follows one, the selection of a form, and the fetch. -/

namespace Sys2Proof.Machine

/-! ### The frame buffer (20_memory R28, R36; 00_scope 5.2) -/

/-- The byte in the cell of an offset, if there is one. -/
def Memory.read : Memory → Nat → Option Byte
  | [], _ => none
  | (k, b) :: m, a => if k = a then some b else Memory.read m a

/-- The memory with byte `b` at offset `a`. -/
def Memory.write : Memory → Nat → Byte → Memory
  | [], a, b => [(a, b)]
  | (k, c) :: m, a, b =>
    if a < k then (a, b) :: (k, c) :: m
    else if a = k then (a, b) :: m
    else (k, c) :: Memory.write m a b

/-- Every cell from offset `lo` on, offsets strictly rising, all below 19. -/
def Memory.wfFrom : Nat → Memory → Bool
  | _, [] => true
  | lo, (k, _) :: m => decide (lo ≤ k) && decide (k < 19) && Memory.wfFrom (k + 1) m

/-- The canonical form: offsets 0 to 18, strictly rising. An unlisted offset has no value, so no cell can equal what
it would read as. -/
def Memory.wf (m : Memory) : Bool := Memory.wfFrom 0 m

/-- The value of `BUF[a]`: a byte that has not been written since the last RST has none (R21, 93 U2; log 6). -/
def byteAt (a : Nat) (s : State) : Option Byte :=
  if s.bufWritten[a]? = some true then s.buf.read a else none

/-- `BUF[a]` as a rule reads it. -/
def readByte (a : Nat) (s : State) : Except Fault Byte :=
  if 19 ≤ a then .error (.offsetOutOfRange a)
  else match byteAt a s with
    | some b => .ok b
    | none => .error (.unwrittenByte a)

/-- `MemRead(a, n)`: `n` consecutive bytes, the first the most significant (00_scope 5.2). It is defined for
`a + n ≤ 19`; a read that a configuration puts beyond faults (DESIGN CHOICE, log 20). -/
def memRead (cfg : Cfg) (a : Nat) : Nat → State → Except Fault Nat
  | 0, _ => .ok 0
  | n + 1, s =>
    match memRead cfg a n s with
    | .error f => .error f
    | .ok hi =>
      match readByte (a + n) s with
      | .error f => .error f
      | .ok b => .ok (hi * cfg.fieldRadix + b.toNat)

/-- `MemWrite(a, 1, b)`: `BUF[a] <- b`. -/
def memWrite (a : Offset) (b : Byte) (s : State) : State :=
  { s with
    buf := s.buf.write a.val b
    bufWritten := s.bufWritten.set a.val true a.isLt }

/-! ### Outcomes -/

/-- Go on from the next state of an outcome; a fault or a refusal stays. -/
def andThen (r : Result) (k : State → Result) : Result :=
  match r with
  | .next s => k s
  | .fault f => .fault f
  | .refused q => .refused q

/-- Go on with a value that a read gives; its fault stops. -/
def withRead {α : Type} (v : Except Fault α) (k : α → Result) : Result :=
  match v with
  | .ok x => k x
  | .error f => .fault f

/-! ### Outputs (00_scope 5.2, 5.3) -/

/-- `emit O`. -/
def emit (o : Output) (s : State) : State :=
  { s with output := s.output ++ [o] }

/-! ### The checksum (41_checksum R69, R73) -/

/-- The XOR of the bytes, `0x00` for none. -/
def checksum : List Byte → Byte
  | [] => 0x00
  | b :: bs => b ^^^ checksum bs

/-! ### Taking an exception (60_exceptions R100 to R108) and leaving `Terminated` (R110) -/

/-- The cause that `ERR` records (R101). -/
def Exc.cause : Exc → Err
  | .transportError _ => .transportError
  | .invalidStartByte _ => .invalidStartByte
  | .invalidStopByte _ => .invalidStopByte
  | .invalidChecksum _ _ => .invalidChecksum

/-- The class of a cause (R100, R101): whether it ends the session. -/
def Err.isFatal : Err → Bool
  | .noError => false
  | .transportError => true
  | .invalidStartByte => true
  | .invalidStopByte => true
  | .invalidChecksum => false

/-- The output that reports an exception (R102). -/
def Exc.report : Exc → Output
  | .transportError n => .fatal .transportError n
  | .invalidStartByte b => .fatal .invalidStartByte b
  | .invalidStopByte b => .fatal .invalidStopByte b
  | .invalidChecksum computed received => .diag computed received

/-- `raise E(info)` (R104 to R108): `ERR` takes the cause, a fatal cause ends the session, the report is emitted, and
nothing else is written. -/
def raise (e : Exc) (s : State) : State :=
  emit e.report { s with
    err := e.cause
    mode := if e.cause.isFatal then .terminated else s.mode }

/-- The return (R110): there is none within a session; a new session, opened with divider `n`, gives every register its
reset value and restores nothing (R60, R27). `BUF` is not written, and no byte of it has a value any more (R21; log 6). -/
def openSession (n : U16) (s : State) : State :=
  { s with
    mode := .running
    cnt := 0
    acc := 0x00
    err := .noError
    div := n
    mValid := false
    mCur := 0
    mVolt := 0
    mChk := 0x00
    bufWritten := Vector.replicate 19 false
    rstSeen := true }

/-! ### Events and forms (40_input_stage R58, R62, R67) -/

/-- R123: before the first RST no other event has a meaning. -/
def afterReset (s : State) (r : Result) : Result :=
  if s.rstSeen then r else .refused .notReset

/-- R67: in `Terminated` an event reads `MODE`, writes nothing and emits `None`. -/
def whenRunning (s : State) (r : Result) : Result :=
  match s.mode with
  | .running => r
  | .terminated => .next (emit .none s)

/-- R62: the form of RXB that `CNT` selects. Under the values of R4 the four rows part the offsets 0 to 18. DESIGN CHOICE
(log 20), under other values, of which the spec says nothing: the tests are made in this order, so an offset below
PAY_FIRST is START whether or not it is 0, PAY wins where rows overlap, and every offset that none of the first three
tests takes is STOP, whatever STOP_OFFSET is. -/
def formAt (cfg : Cfg) (cnt : Offset) : Form :=
  if cnt.val < cfg.payFirst then .start
  else if cnt.val ≤ cfg.payLast then .pay
  else if cnt.val = cfg.chkOffset then .chk
  else .stop

/-- A positional form: the body runs where `MODE` and `CNT` select the form, `Terminated` drops the byte, and any
other `CNT` selects another form (log 8). -/
def onForm (cfg : Cfg) (f : Form) (s : State) (body : Result) : Result :=
  afterReset s (whenRunning s (if formAt cfg s.cnt = f then body else .refused .formNotSelected))

/-- R62: the received byte is stored at `BUF[CNT]` and `CNT` advances by one modulo 19. -/
def storeAndAdvance (d : Byte) (s : State) : State :=
  { memWrite s.cnt d s with cnt := s.cnt + 1 }

/-! ### The fetch (00_scope R8; log 2) -/

/-- The next sampling instant and the state after it is taken: the head of the input, whose `cfg_divider` becomes the
port's level; with no input left the ports carry nothing, which is the event word of IDLE. -/
def fetch (s : State) : Wire × State :=
  match s.input with
  | [] => (.ev 0x000, s)
  | x :: xs => (x.wire, { s with input := xs, cfgDivider := x.cfgDivider })

/-- 00_scope R7: a configuration with another frame size than 19 is refused; so is one whose integers are narrower than
R5 allows (log 14). -/
def underCfg (cfg : Cfg) (r : Result) : Result :=
  if cfg.frameSizeOk then
    if cfg.intWidthOk then r else .refused .intWidthBelow32
  else .refused .frameSizeNot19

end Sys2Proof.Machine
end

