-- ==== Sys2Proof/Machine/Decoder.lean ====
section
/-! DEFINITION. The decoder (43_decoder): the two numerators of the integer stage, and what a measurement denotes: the
exact rationals of R94 and the host's final division of R95. -/

namespace Sys2Proof.Machine

/-- `tdiv(a, b)`: the quotient rounded toward zero, for `b ≠ 0` (00_scope 5.1). For `b = 0`, which only a configuration
with FIELD_RADIX 0 asks for, it is 0: DESIGN CHOICE, log 20. -/
def tdiv (a b : Int) : Int := Int.tdiv a b

/-- `CUR_NUM(raw16)` (R90). Computed in the integers: no intermediate value leaves `i32` (R92, log 13). -/
def curNum (cfg : Cfg) (raw16 : Int) : Int :=
  raw16 - tdiv raw16 cfg.fieldRadix * cfg.corrMul

/-- `VOLT_NUM(raw16)` (R91). -/
def voltNum (cfg : Cfg) (raw16 : Int) : Int :=
  let vRaw := raw16 - cfg.vBias
  let corr := tdiv (raw16 - cfg.vCorrBias) cfg.fieldRadix * cfg.corrMul
  vRaw - corr

/-- A numerator, an integer of `INT_WIDTH` bits (R5), as the `i32` that the latches and `Meas` carry (R16, R92).
Under the values of R5 every numerator fits. DESIGN CHOICE (log 13), where other constants make one that does not fit: the
low 32 bits of the exact integer. -/
def narrow (cfg : Cfg) (x : Int) : I32 :=
  (BitVec.ofInt cfg.intWidth x).signExtend intWidth

/-- The voltage a measurement denotes, exactly: `volt_num / 1000` (R94). With VOLT_DIVISOR 0 it is 0: DESIGN CHOICE,
log 20. -/
def voltage (cfg : Cfg) (voltNum : I32) : Rat := (voltNum.toInt : Rat) / (cfg.voltDivisor : Rat)

/-- The current a measurement denotes, exactly: `cur_num / div` (R94). For a divider 0, which R18 excludes, it is 0: DESIGN
CHOICE, log 20. -/
def current (curNum : I32) (div : U16) : Rat := (curNum.toInt : Rat) / (div.toNat : Rat)

/-- `FLOAT_FMT` (R6, R95): a floating-point format is a parameter, given by its conversion from an integer and its
division (log 17). -/
structure FloatFmt (α : Type) where
  ofInt : Int → α
  div : α → α → α

/-- R95, a host duty: `voltage = float(volt_num) / 1000.0`. -/
def hostVoltage {α : Type} (cfg : Cfg) (f : FloatFmt α) (voltNum : I32) : α :=
  f.div (f.ofInt voltNum.toInt) (f.ofInt cfg.voltDivisor)

/-- R95, a host duty: `current = float(cur_num) / float(div)`. -/
def hostCurrent {α : Type} (f : FloatFmt α) (curNum : I32) (div : U16) : α :=
  f.div (f.ofInt curNum.toInt) (f.ofInt div.toNat)

end Sys2Proof.Machine
end

