-- ==== Sys2Proof/Machine/Flags.lean ====
section
/-! DEFINITION. Flags and ports: the predicates of the verdict (41_checksum R72, 42_frame_validator R78), the strobes
(10_state R22), the codes of `MODE` and `ERR` (R11, 60_exceptions R101) and the output ports (10_state R24). -/

namespace Sys2Proof.Machine

/-- The start marker matches. -/
def startOk (cfg : Cfg) (start : Byte) : Bool := start == cfg.startMarker

/-- The stop marker matches. -/
def stopOk (cfg : Cfg) (stop : Byte) : Bool := stop == cfg.stopMarker

/-- R72: the computed checksum equals the received byte. -/
def chkOk (acc received : Byte) : Bool := acc == received

/-- R78: both markers match. -/
def wellFormedFrame (cfg : Cfg) (start stop : Byte) : Bool := startOk cfg start && stopOk cfg stop

/-- R78: well-formed, and the checksum matches. -/
def trustedFrame (cfg : Cfg) (start stop acc received : Byte) : Bool :=
  wellFormedFrame cfg start stop && chkOk acc received

/-- The encoding of `MODE` (R11). -/
def Mode.code : Mode → BitVec 1
  | .running => 0
  | .terminated => 1

/-- The cause codes (R101). -/
def Err.code : Err → BitVec 3
  | .noError => 0
  | .transportError => 1
  | .invalidStartByte => 2
  | .invalidStopByte => 3
  | .invalidChecksum => 4

/-- The cause that a `Fatal` output names. -/
def FatalCause.err : FatalCause → Err
  | .transportError => .transportError
  | .invalidStartByte => .invalidStartByte
  | .invalidStopByte => .invalidStopByte

/-- Strobe `ok` (R22). -/
def Output.ok : Output → Bool
  | .none => false
  | .meas _ _ _ _ => true
  | .diag _ _ => false
  | .fatal _ _ => false

/-- Strobe `diag` (R22). -/
def Output.isDiag : Output → Bool
  | .none => false
  | .meas _ _ _ _ => false
  | .diag _ _ => true
  | .fatal _ _ => false

/-- Strobe `fatal` (R22). -/
def Output.isFatal : Output → Bool
  | .none => false
  | .meas _ _ _ _ => false
  | .diag _ _ => false
  | .fatal _ _ => true

/-- A verdict or a failure: any output but `None`. -/
def Output.isVerdict (o : Output) : Bool := o.ok || o.isDiag || o.isFatal

/-- Port `out_code` (R24): the code that a `Diag` or `Fatal` output carries. -/
def Output.code : Output → BitVec 3
  | .none => 0
  | .meas _ _ _ _ => 0
  | .diag _ _ => Err.invalidChecksum.code
  | .fatal e _ => e.err.code

/-- Port `out_info` (R24): the `info` of a `Fatal`, the `received` byte of a `Diag`. -/
def Output.info : Output → Byte
  | .none => 0
  | .meas _ _ _ _ => 0
  | .diag _ received => received
  | .fatal _ info => info

/-- Port `out_computed` (R24). -/
def Output.computed : Output → Byte
  | .none => 0
  | .meas _ _ _ _ => 0
  | .diag computed _ => computed
  | .fatal _ _ => 0

/-- The output of the most recent event; the ports show it until the next event (log 19). DESIGN CHOICE: with no output
emitted yet, which is so only before the first RST, it is `None`; every output is unspecified there (R27; log 19). -/
def State.lastOutput (s : State) : Output := s.output.getLast?.getD .none

/-- The output ports (R24). -/
structure Ports where
  ok : Bool
  diag : Bool
  fatal : Bool
  outCode : BitVec 3
  outInfo : Byte
  outComputed : Byte
  mode : BitVec 1
  err : BitVec 3
  mValid : Bool
  mCur : I32
  mVolt : I32
  mChk : Byte
  div : U16
  deriving DecidableEq, Repr

/-- R24: the strobes and `out_*` are functions of the event's output, the rest are the named registers. -/
def State.ports (s : State) : Ports where
  ok := s.lastOutput.ok
  diag := s.lastOutput.isDiag
  fatal := s.lastOutput.isFatal
  outCode := s.lastOutput.code
  outInfo := s.lastOutput.info
  outComputed := s.lastOutput.computed
  mode := s.mode.code
  err := s.err.code
  mValid := s.mValid
  mCur := s.mCur
  mVolt := s.mVolt
  mChk := s.mChk
  div := s.div

end Sys2Proof.Machine
end

