-- ==== Sys2Proof/Machine/Operands.lean ====
section
/-! DEFINITION. The operands a complete frame gives (30_encoding R50, R51): the two marker bytes, the checksum byte, and
the two fields, high byte first. -/

namespace Sys2Proof.Machine

/-- `start = BUF[0]`. -/
def startOperand (s : State) : Except Fault Byte := readByte 0 s

/-- `stop = BUF[18]`. -/
def stopOperand (cfg : Cfg) (s : State) : Except Fault Byte := readByte cfg.stopOffset s

/-- `chk = BUF[17]`. -/
def chkOperand (cfg : Cfg) (s : State) : Except Fault Byte := readByte cfg.chkOffset s

/-- `raw16_cur = MemRead(2, 2)`. -/
def curOperand (cfg : Cfg) (s : State) : Except Fault Nat := memRead cfg cfg.curOffset 2 s

/-- `raw16_volt = MemRead(4, 2)`. -/
def voltOperand (cfg : Cfg) (s : State) : Except Fault Nat := memRead cfg cfg.voltOffset 2 s

/-- `zext_8(CNT)`: how many bytes of the frame have been received, the `info` of a transport failure (60_exceptions R104). -/
def receivedCount (s : State) : Byte := BitVec.ofNat 8 s.cnt.val

end Sys2Proof.Machine
end

