-- ==== Sys2Proof/Machine/Validator.lean ====
section
/-! DEFINITION. The verdict on a complete frame (42_frame_validator R77 to R84). -/

namespace Sys2Proof.Machine

/-- `DELIVER` (R84): the latches take the measurement, `ERR` is cleared, `Meas` is emitted. -/
def deliver (cfg : Cfg) (s : State) : Result :=
  withRead (curOperand cfg s) fun rawCur =>
  withRead (voltOperand cfg s) fun rawVolt =>
  withRead (chkOperand cfg s) fun chk =>
  .next (emit (.meas (narrow cfg (curNum cfg rawCur)) (narrow cfg (voltNum cfg rawVolt)) chk s.div)
    { s with
      mCur := narrow cfg (curNum cfg rawCur)
      mVolt := narrow cfg (voltNum cfg rawVolt)
      mChk := chk
      mValid := true
      err := .noError })

/-- `VERDICT` (R79): start, stop, checksum, in this order; the first that fails decides, and a byte is read only when
its check is made. -/
def verdict (cfg : Cfg) (s : State) : Result :=
  withRead (startOperand s) fun start =>
  if startOk cfg start then
    withRead (stopOperand cfg s) fun stop =>
    if stopOk cfg stop then
      withRead (chkOperand cfg s) fun chk =>
      if chkOk s.acc chk then deliver cfg s
      else .next (raise (.invalidChecksum s.acc chk) s)
    else .next (raise (.invalidStopByte stop) s)
  else .next (raise (.invalidStartByte start) s)

end Sys2Proof.Machine
end

