-- ==== Sys2Proof/Machine/InputStage.lean ====
section
/-! DEFINITION. The meanings of the events (40_input_stage R59 to R67): IDLE, RST, RXF, and RXB with its four
forms, which are written for any configuration (00_scope R8) and then taken under the block's own. -/

namespace Sys2Proof.Machine

/-- IDLE (R59). -/
def execIdle (s : State) : Result :=
  afterReset s (.next (emit .none s))

/-- RST (R60): acts in both modes and before anything else; the divider 0 is refused (R18, 93 U3). -/
def execRst (s : State) : Result :=
  if s.cfgDivider = 0 then .refused .zeroDivider
  else .next (emit .none (openSession s.cfgDivider s))

/-- RXF (R61): in `Running` a `TransportError` that reports `CNT`. -/
def execRxf (s : State) : Result :=
  afterReset s (whenRunning s (.next (raise (.transportError (receivedCount s)) s)))

/-- RXB.START (R63): store, clear `ACC`. -/
def execRxbStartUnder (cfg : Cfg) (d : Byte) (s : State) : Result :=
  onForm cfg .start s (.next (emit .none { storeAndAdvance d s with acc := 0x00 }))

/-- RXB.PAY (R64): store, fold the byte into `ACC`. -/
def execRxbPayUnder (cfg : Cfg) (d : Byte) (s : State) : Result :=
  onForm cfg .pay s (.next (emit .none { storeAndAdvance d s with acc := s.acc ^^^ d }))

/-- RXB.CHK (R65): store; `ACC` is not written. -/
def execRxbChkUnder (cfg : Cfg) (d : Byte) (s : State) : Result :=
  onForm cfg .chk s (.next (emit .none (storeAndAdvance d s)))

/-- RXB.STOP (R66): store, `CNT` back to 0, then the verdict. -/
def execRxbStopUnder (cfg : Cfg) (d : Byte) (s : State) : Result :=
  onForm cfg .stop s (verdict cfg (storeAndAdvance d s))

/-- RXB (R62): the form that the state selects, whatever the byte. -/
def execRxbUnder (cfg : Cfg) (d : Byte) (s : State) : Result :=
  match formAt cfg s.cnt with
  | .start => execRxbStartUnder cfg d s
  | .pay => execRxbPayUnder cfg d s
  | .chk => execRxbChkUnder cfg d s
  | .stop => execRxbStopUnder cfg d s

/-! ### Under the block's own configuration -/

/-- RXB.START (R63). -/
def execRxbStart (d : Byte) (s : State) : Result := execRxbStartUnder Config.cfg d s

/-- RXB.PAY (R64). -/
def execRxbPay (d : Byte) (s : State) : Result := execRxbPayUnder Config.cfg d s

/-- RXB.CHK (R65). -/
def execRxbChk (d : Byte) (s : State) : Result := execRxbChkUnder Config.cfg d s

/-- RXB.STOP (R66). -/
def execRxbStop (d : Byte) (s : State) : Result := execRxbStopUnder Config.cfg d s

/-- RXB (R62). -/
def execRxb (d : Byte) (s : State) : Result := execRxbUnder Config.cfg d s

end Sys2Proof.Machine
end

