-- ==== Sys2Proof/Machine/Formats.lean ====
section
/-! DEFINITION. The meanings of the two wire formats: FRAME (30_encoding R56, R57) and INIT (R48, 70_reset R128). -/

namespace Sys2Proof.Machine

/-- `BYTES(h0 h1 ... hn)` (R56): one RXB per byte, in order. -/
def receiveAll (cfg : Cfg) : List Byte → State → Result
  | [], s => .next s
  | b :: bs, s => andThen (execRxbUnder cfg b s) (receiveAll cfg bs)

/-- FRAME (R56, R57): nineteen RXB events from whatever `CNT` and `MODE` the block is in (log 9). -/
def execFrameUnder (cfg : Cfg) (p : List Byte) (c : Byte) (s : State) : Result :=
  receiveAll cfg (frameBytes cfg p c) s

/-- FRAME under the block's own configuration. -/
def execFrame (p : List Byte) (c : Byte) (s : State) : Result := execFrameUnder Config.cfg p c s

/-- `GOOD(p1 ... p16)` (R56): the frame whose checksum byte is right. -/
def goodFrame (p : List Byte) : Instr := .frame p (checksum p)

/-- `MEASFRAME(ch cl vh vl)` (R56): a trusted frame with these fields and every reserved byte 0. -/
def measFrame (ch cl vh vl : Byte) : Instr :=
  goodFrame (0x00 :: ch :: cl :: vh :: vl :: List.replicate 11 0x00)

/-- INIT (R128): the host has the transport write the ten bytes to the instrument. The block neither produces nor
receives them, so no state of the block changes and no output is emitted (log 10). -/
def execInit (s : State) : Result :=
  .next { s with sent := s.sent ++ Config.initSeq }

end Sys2Proof.Machine
end

