-- ==== Sys2Proof/Machine/Configured.lean ====
section
/-! DEFINITION. The step function of 00_scope R8 with its configuration as a parameter: the operations under any
configuration, and one cycle of fetch, decode and execute. -/

namespace Sys2Proof.Machine

/-- Every operation under a configuration. IDLE, RST, RXF and INIT depend on none of its constants. -/
def execUnder (cfg : Cfg) (i : Instr) (s : State) : Result :=
  match i with
  | .rst => execRst s
  | .rxf => execRxf s
  | .rxb d => execRxbUnder cfg d s
  | .idle => execIdle s
  | .rxbStart d => execRxbStartUnder cfg d s
  | .rxbPay d => execRxbPayUnder cfg d s
  | .rxbChk d => execRxbChkUnder cfg d s
  | .rxbStop d => execRxbStopUnder cfg d s
  | .frame p c => execFrameUnder cfg p c s
  | .init => execInit s

/-- Fetch, decode, and run the operation; presented bits that are no operation are refused by name. -/
def cycle (cfg : Cfg) (run : Instr → State → Result) (s : State) : Result :=
  underCfg cfg <|
    match decode cfg (fetch s).1 with
    | .ok i => run i (fetch s).2
    | .error e => .refused (.undecodable e)

/-- `step : Cfg -> State -> Event -> State x Output` (R8); the event is the next input, and the output is appended to
`State.output` (log 2, log 4). -/
def stepUnder (cfg : Cfg) (s : State) : Result := cycle cfg (execUnder cfg) s

end Sys2Proof.Machine
end

