-- ==== Sys2Proof/Machine/Dispatch.lean ====
section
/-! DEFINITION. One arm per row of spec/opcode_table.json. -/

namespace Sys2Proof.Machine

def exec (i : Instr) (s : State) : Host.Outcome State Fault Refusal :=
  match i with
  | .rst => Sys2Proof.Machine.execRst s
  | .rxf => Sys2Proof.Machine.execRxf s
  | .rxb d => Sys2Proof.Machine.execRxb d s
  | .idle => Sys2Proof.Machine.execIdle s
  | .rxbStart d => Sys2Proof.Machine.execRxbStart d s
  | .rxbPay d => Sys2Proof.Machine.execRxbPay d s
  | .rxbChk d => Sys2Proof.Machine.execRxbChk d s
  | .rxbStop d => Sys2Proof.Machine.execRxbStop d s
  | .frame p c => Sys2Proof.Machine.execFrame p c s
  | .init => Sys2Proof.Machine.execInit s

end Sys2Proof.Machine
end

