-- ==== Sys2Proof/Machine/Step.lean ====
section
/-! DEFINITION. One step (00_scope R8, 40_input_stage R58): take the next input, decode it, execute it. -/

namespace Sys2Proof.Machine

/-- One cycle under the block's own configuration: `stepUnder Config.cfg`, through `exec`. -/
def step (s : State) : Host.Outcome State Fault Refusal := cycle Config.cfg exec s

/-- `s` with the bits `w` as the next input, so that the very next step runs what they stand for; the port `cfg_divider`
keeps its level (log 2, log 11). -/
def State.withFetchWord (s : State) (nbits w : Nat) : State :=
  { s with input := { wire := wireOfBits nbits w, cfgDivider := s.cfgDivider } :: s.input }

end Sys2Proof.Machine
end

