-- ==== Sys2Proof/Safety.lean ====
section
/-! DEFINITION. The terms in which claims are stated: which state an operation changes, runs of operations, the
invariant of reachable states (10_state R20), and the host's duties (70_reset R125, R128, R131). -/

namespace Sys2Proof.Machine

/-! ### What changes -/

/-- The fields of `State` but for the frame buffer, which claims read byte by byte. -/
inductive Field where
  | mode | cnt | acc | err | div | mValid | mCur | mVolt | mChk
  | rstSeen | cfgDivider | input | output | sent
  deriving DecidableEq, Repr

/-- Two states agree on a field. -/
def Field.same (f : Field) (s t : State) : Prop :=
  match f with
  | .mode => t.mode = s.mode
  | .cnt => t.cnt = s.cnt
  | .acc => t.acc = s.acc
  | .err => t.err = s.err
  | .div => t.div = s.div
  | .mValid => t.mValid = s.mValid
  | .mCur => t.mCur = s.mCur
  | .mVolt => t.mVolt = s.mVolt
  | .mChk => t.mChk = s.mChk
  | .rstSeen => t.rstSeen = s.rstSeen
  | .cfgDivider => t.cfgDivider = s.cfgDivider
  | .input => t.input = s.input
  | .output => t.output = s.output
  | .sent => t.sent = s.sent

/-- From `s` to `t` no field outside `fs` changes (the frame buffer is `KeepsBytes`). -/
def ChangesOnly (fs : List Field) (s t : State) : Prop := ∀ f, f ∉ fs → f.same s t

/-- Every frame-buffer byte outside `P` reads in `t` as in `s`. -/
def KeepsBytes (P : Nat → Prop) (s t : State) : Prop := ∀ a, ¬ P a → readByte a t = readByte a s

/-- Every frame-buffer byte reads in `t` as in `s`. -/
def KeepsAllBytes (s t : State) : Prop := KeepsBytes (fun _ => False) s t

/-! ### Operations and runs -/

/-- An RST has been taken and the session has not ended. -/
abbrev Live (s : State) : Prop := s.rstSeen = true ∧ s.mode = .running

/-- The operations that are one input event (30_encoding R57: FRAME and INIT are not). -/
def isEvent : Instr → Bool
  | .rst => true
  | .rxf => true
  | .rxb _ => true
  | .idle => true
  | .rxbStart _ => true
  | .rxbPay _ => true
  | .rxbChk _ => true
  | .rxbStop _ => true
  | .frame _ _ => false
  | .init => false

/-- The byte that a byte event carries, RXB or one of its forms. -/
def byteOf : Instr → Option Byte
  | .rst => none
  | .rxf => none
  | .rxb d => some d
  | .idle => none
  | .rxbStart d => some d
  | .rxbPay d => some d
  | .rxbChk d => some d
  | .rxbStop d => some d
  | .frame _ _ => none
  | .init => none

/-- Operations one after another, up to the first fault or refusal. -/
def execAll : List Instr → State → Result
  | [], s => .next s
  | i :: is, s => andThen (exec i s) (execAll is)

/-- The outputs that `t` holds beyond those of `s`. -/
def newOutputs (s t : State) : List Output := t.output.drop s.output.length

/-- How many verdicts or failures a list of outputs reports. -/
def verdictCount (os : List Output) : Nat := (os.filter Output.isVerdict).length

/-! ### The invariant of reachable states (R20) -/

/-- Every byte below offset `n` has a value: it has been written since the last RST. -/
abbrev Written (s : State) (n : Nat) : Prop := ∀ a < n, (byteAt a s).isSome = true

/-- The bytes at offsets 1 to `n`. -/
def payloadBytes (s : State) (n : Nat) : List Byte :=
  (List.range n).filterMap fun k => byteAt (k + 1) s

/-- The buffer is in canonical form, and a byte written since the last RST is in it. -/
abbrev BufAgrees (s : State) : Prop :=
  s.buf.wf = true ∧ ∀ a < 19, s.bufWritten[a]? = some true → (s.buf.read a).isSome = true

/-- R20 points 2, 3 and 4: the bytes of the frame so far are in the buffer and `ACC` is the checksum of its payload so
far; at a frame boundary `ACC` is 0 or the checksum of the frame just completed. -/
abbrev AccAgrees (s : State) : Prop :=
  s.mode = .running →
    (s.cnt ≠ 0 → Written s s.cnt.val ∧
      s.acc = checksum (payloadBytes s (min (s.cnt.val - 1) 16))) ∧
    (s.cnt = 0 → s.acc = 0x00 ∨
      (Written s 19 ∧ s.acc = checksum (payloadBytes s 16)))

/-- R20 points 5 and 6. -/
abbrev ErrAgrees (s : State) : Prop :=
  (s.mode = .terminated → s.err.isFatal = true) ∧ (s.mode = .running → s.err.isFatal = false)

/-- R20 point 7. -/
abbrev LatchesInRange (s : State) : Prop :=
  s.mValid = true →
    0 ≤ s.mCur.toInt ∧ s.mCur.toInt ≤ 61455 ∧ -15 ≤ s.mVolt.toInt ∧ s.mVolt.toInt ≤ 61455

/-- R20: the canonical memory with what RST left of it, and, once an RST has been taken, points 2 to 8 (point 1 is the type of `CNT`). -/
abbrev Inv (s : State) : Prop :=
  BufAgrees s ∧
  (s.rstSeen = true → AccAgrees s ∧ ErrAgrees s ∧ LatchesInRange s ∧ s.div ≠ 0)

/-- Two states that agree on everything but the frame-buffer bytes at and after `CNT`, which belong to no frame that
is being received (R21); in which of the two states such a byte has a value may differ too. -/
def SameButStale (s t : State) : Prop :=
  ChangesOnly [] s t ∧ ∀ a < s.cnt.val, readByte a t = readByte a s

/-! ### The end of a run (R138) and the host's duties -/

/-- R138: a run has ended when `MODE` is `Terminated`. -/
abbrev Ended (s : State) : Prop := s.mode = .terminated

/-- R125 steps 3 and 5, R126, R128: the host sends the initialisation sequence once, then applies RST with a nonzero
divider, and only then delivers events; within the session it neither sends the sequence again nor resets. -/
def hostOpens : List Item → Bool
  | ⟨w, _⟩ :: ⟨r, n⟩ :: rest =>
    decide (decode Config.cfg w = .ok .init) && decide (decode Config.cfg r = .ok .rst) && decide (n ≠ 0) &&
      rest.all fun x => !decide (decode Config.cfg x.wire = .ok .init) && !decide (decode Config.cfg x.wire = .ok .rst)
  | _ => false

end Sys2Proof.Machine
end

