-- ==== Sys2Proof/Certificates/Slice0/Obligations.lean ====
section
/-! DEFINITION. The statements for the provers. Each docstring names the rule of spec/ it formalises, or the log entry of
the model's choice that it states. -/

open Sys2Proof Sys2Proof.Machine Sys2Proof.Config

/-! ### Encodings -/

/-- R44 to R48, R57: the words of every well-formed operation decode to it; the four positional forms have RXB's
words, so these decode to RXB with the same byte. -/
def Obligations.DecodeInvertsEncode : Prop :=
  (∀ i : Instr, i.wellFormed = true →
    (∀ d, i ≠ .rxbStart d ∧ i ≠ .rxbPay d ∧ i ≠ .rxbChk d ∧ i ≠ .rxbStop d) →
    decode cfg (encode cfg i) = .ok i) ∧
  (∀ d : Byte,
    decode cfg (encode cfg (.rxbStart d)) = .ok (.rxb d) ∧
    decode cfg (encode cfg (.rxbPay d)) = .ok (.rxb d) ∧
    decode cfg (encode cfg (.rxbChk d)) = .ok (.rxb d) ∧
    decode cfg (encode cfg (.rxbStop d)) = .ok (.rxb d))

/-- R45: every event word selects exactly one operation, by the masks and matches of the table. -/
def Obligations.EventWordsSelectExactlyOneOperation : Prop :=
  ∀ w : EventWord,
    (w &&& 0x400 = 0x400 → decode cfg (.ev w) = .ok .rst) ∧
    (w &&& 0x600 = 0x200 → decode cfg (.ev w) = .ok .rxf) ∧
    (w &&& 0x700 = 0x100 → decode cfg (.ev w) = .ok (.rxb (w.setWidth 8))) ∧
    (w &&& 0x700 = 0x000 → decode cfg (.ev w) = .ok .idle) ∧
    ([decide (w &&& 0x400 = 0x400), decide (w &&& 0x600 = 0x200), decide (w &&& 0x700 = 0x100),
      decide (w &&& 0x700 = 0x000)].filter id).length = 1

/-- R47: nineteen bytes match the pattern exactly when both markers are right, and then they decode to the FRAME whose
encoding they are; otherwise they are rejected (log 12). -/
def Obligations.FrameWordsDecodeByThePattern : Prop :=
  ∀ w : FrameWord,
    (w &&& 0xFF0000000000000000000000000000000000FF = 0xFA0000000000000000000000000000000000F8 ↔
      w.extractLsb' 144 8 = (0xFA : Byte) ∧ w.extractLsb' 0 8 = (0xF8 : Byte)) ∧
    (w &&& 0xFF0000000000000000000000000000000000FF = 0xFA0000000000000000000000000000000000F8 →
      ∃ p c, decode cfg (.fr19 w) = .ok (.frame p c) ∧ p.length = 16 ∧ encode cfg (.frame p c) = .fr19 w) ∧
    (w &&& 0xFF0000000000000000000000000000000000FF ≠ 0xFA0000000000000000000000000000000000F8 →
      decode cfg (.fr19 w) = .error .notAFrame)

/-- R48: the initialisation sequence is one fixed 80-bit constant without fields. -/
def Obligations.InitWordIsTheOneConstant : Prop :=
  ∀ w : InitWord, decode cfg (.tx10 w) = .ok .init ↔ w = 0xFA0500000000000005F8

/-- What the decoder gives is well formed, and no positional form: the word does not say which form applies (R57). -/
def Obligations.DecodedOperationsAreWellFormed : Prop :=
  ∀ (x : Wire) (i : Instr), decode cfg x = .ok i →
    i.wellFormed = true ∧
    ∀ d, i ≠ .rxbStart d ∧ i ≠ .rxbPay d ∧ i ≠ .rxbChk d ∧ i ≠ .rxbStop d

/-- 95_test_vectors 2.1: event words written out bit by bit. -/
def Obligations.WrittenOutEventWordsDecode : Prop :=
  decode cfg (.ev 0b00000000000#11) = .ok .idle ∧
  decode cfg (.ev 0b00111111010#11) = .ok (.rxb 0xFA) ∧
  decode cfg (.ev 0b01111111000#11) = .ok .rxf ∧
  decode cfg (.ev 0b10110101010#11) = .ok .rst

/-! ### The step -/

/-- R58, R8: when the next input decodes to an operation, the step is that operation on the state in which the input
has been taken and its `cfg_divider` is at the port. -/
def Obligations.StepRunsTheDecodedOperation : Prop :=
  ∀ (s : State) (x : Item) (xs : List Item) (i : Instr),
    s.input = x :: xs → decode cfg x.wire = .ok i →
    step s = exec i { s with input := xs, cfgDivider := x.cfgDivider }

/-- The model's choice (log 2): with nothing left to present the ports carry nothing, which is IDLE (R8). -/
def Obligations.StepWithNothingPresentedIsIdle : Prop :=
  ∀ s : State, s.input = [] → step s = exec .idle s

/-- The model's choice (log 12): presented bits that are no operation are refused under the decoder's reason. -/
def Obligations.StepRefusesUndecodableBits : Prop :=
  ∀ (s : State) (x : Item) (xs : List Item) (e : DecodeError),
    s.input = x :: xs → decode cfg x.wire = .error e → step s = .refused (.undecodable e)

/-- R7, 93 U6: the step under a configuration whose FRAME_SIZE is not 19 is refused; under one whose INT_WIDTH is below
the minimum of R5 it is refused too (the model's reading, log 14); the block's own configuration is accepted. -/
def Obligations.OtherFrameSizesAreRefused : Prop :=
  (∀ (c : Cfg) (r : Result), c.frameSize ≠ 19 → underCfg c r = .refused .frameSizeNot19) ∧
  (∀ r : Result, underCfg cfg r = r) ∧
  (∀ (c : Cfg) (s : State), c.frameSize ≠ 19 → stepUnder c s = .refused .frameSizeNot19) ∧
  (∀ (c : Cfg) (s : State), c.frameSize = 19 → c.intWidth < 32 →
    stepUnder c s = .refused .intWidthBelow32)

/-- R8, 10_state R10: the configuration is a parameter of the step: under any supported one the step is that
configuration's operation on the state in which the input has been taken, an empty input is IDLE (log 2), undecodable
bits are refused (log 12), and the host's `step` and `exec` are the ones under the block's own. -/
def Obligations.ConfigurationIsAParameterOfTheStep : Prop :=
  (∀ s : State, stepUnder cfg s = step s) ∧
  (∀ (i : Instr) (s : State), execUnder cfg i s = exec i s) ∧
  (∀ (c : Cfg) (s : State), c.frameSize = 19 → 32 ≤ c.intWidth →
    (s.input = [] → stepUnder c s = execUnder c .idle s) ∧
    (∀ (x : Item) (xs : List Item), s.input = x :: xs →
      (∀ i, decode c x.wire = .ok i →
        stepUnder c s = execUnder c i { s with input := xs, cfgDivider := x.cfgDivider }) ∧
      (∀ e, decode c x.wire = .error e → stepUnder c s = .refused (.undecodable e))))

/-- R7, 92 D18: a corrected literal changes one value and no rule: under any configuration with the frame's offsets, any
markers, any constants of the decode formulas and any INT_WIDTH from 32 on, the last byte of a frame gets the verdict of
R79 on these markers, and a trusted frame the numerators of R90 and R91 with these constants. Where an intermediate value or
a numerator does not fit the width, that the latches hold the low 32 bits of the exact integer is the model's choice
(log 13), as is that the latches are i32 under every INT_WIDTH (log 14), and that a division by a FIELD_RADIX of 0 gives 0
(log 20); R92 says that nothing overflows under the constants of R5. -/
def Obligations.CorrectedLiteralsChangeValuesOnly : Prop :=
  ∀ (c : Cfg) (s : State) (start chk ch cl vh vl d : Byte),
    c.frameSize = 19 → 32 ≤ c.intWidth → c.payFirst = 1 → c.payLast = 16 → c.chkOffset = 17 →
    c.stopOffset = 18 → c.curOffset = 2 → c.voltOffset = 4 →
    Live s → s.cnt = 18 → readByte 0 s = .ok start → readByte 17 s = .ok chk →
    readByte 2 s = .ok ch → readByte 3 s = .ok cl → readByte 4 s = .ok vh → readByte 5 s = .ok vl →
    ∃ (t : State) (rawCur rawVolt : Int),
      rawCur = ch.toNat * c.fieldRadix + cl.toNat ∧ rawVolt = vh.toNat * c.fieldRadix + vl.toNat ∧
      execUnder c (.rxbStop d) s = .next t ∧ execUnder c (.rxb d) s = .next t ∧
      t.cnt = 0 ∧ KeepsBytes (fun a => a = s.cnt.val) s t ∧ readByte 18 t = .ok d ∧
      (if start ≠ c.startMarker then
        t.mode = .terminated ∧ t.err = .invalidStartByte ∧
          ChangesOnly [.mode, .cnt, .err, .output] s t ∧
          t.output = s.output ++ [.fatal .invalidStartByte start]
      else if d ≠ c.stopMarker then
        t.mode = .terminated ∧ t.err = .invalidStopByte ∧
          ChangesOnly [.mode, .cnt, .err, .output] s t ∧
          t.output = s.output ++ [.fatal .invalidStopByte d]
      else if s.acc ≠ chk then
        t.mode = .running ∧ t.err = .invalidChecksum ∧ ChangesOnly [.cnt, .err, .output] s t ∧
          t.output = s.output ++ [.diag s.acc chk]
      else
        t.mode = .running ∧ t.err = .noError ∧ t.mValid = true ∧ t.mChk = chk ∧
          t.mCur = BitVec.ofInt 32 (rawCur - Int.tdiv rawCur c.fieldRadix * c.corrMul) ∧
          t.mVolt = BitVec.ofInt 32
            (rawVolt - c.vBias - Int.tdiv (rawVolt - c.vCorrBias) c.fieldRadix * c.corrMul) ∧
          ChangesOnly [.cnt, .err, .mValid, .mCur, .mVolt, .mChk, .output] s t ∧
          t.output = s.output ++ [.meas t.mCur t.mVolt t.mChk s.div])

/-! ### IDLE, RST, RXF, INIT -/

/-- R59: IDLE writes no state and emits `None`, in either mode and at any `CNT`. -/
def Obligations.IdleOnlyEmitsNone : Prop :=
  ∀ s : State, s.rstSeen = true →
    ∃ t, exec .idle s = .next t ∧ ChangesOnly [.output] s t ∧ KeepsAllBytes s t ∧
      t.output = s.output ++ [.none]

/-- R60: RST, in any state, gives every register but BUF its reset value and loads DIV from the port; it writes no cell
of BUF; with 0 at the port it is refused. The last clause of the first part, that a read of any byte of BUF faults after
it, rests on R21 and 93 U2 in the form of log 6, the model's choice. -/
def Obligations.ResetLoadsTheResetValues : Prop :=
  ∀ s : State,
    (s.cfgDivider ≠ 0 →
      ∃ t, exec .rst s = .next t ∧
        t.mode = .running ∧ t.cnt = 0 ∧ t.acc = 0x00 ∧ t.err = .noError ∧ t.div = s.cfgDivider ∧
        t.mValid = false ∧ t.mCur = 0 ∧ t.mVolt = 0 ∧ t.mChk = 0x00 ∧ t.rstSeen = true ∧
        t.cfgDivider = s.cfgDivider ∧ t.input = s.input ∧ t.sent = s.sent ∧
        t.output = s.output ++ [.none] ∧ t.buf = s.buf ∧
        ∀ a < 19, readByte a t = .error (.unwrittenByte a)) ∧
    (s.cfgDivider = 0 → exec .rst s = .refused .zeroDivider)

/-- R60: two RSTs in a row equal the second alone, but for the first one's own `None`. -/
def Obligations.SecondResetStandsAlone : Prop :=
  ∀ (s t u v : State) (n : U16),
    exec .rst s = .next t → exec .rst { t with cfgDivider := n } = .next u →
    exec .rst { s with cfgDivider := n } = .next v →
    ChangesOnly [.output] v u ∧ u.buf = v.buf ∧ KeepsAllBytes v u ∧ u.output = v.output ++ [.none]

/-- R21, 93 U2: a byte that has not been written since the last RST has no value, whatever BUF held before it: after an
RST and `k` bytes of the first frame the offsets below `k` read as received and a read of any other faults. -/
def Obligations.BytesNotWrittenSinceResetHaveNoValue : Prop :=
  ∀ (s : State) (bs : List Byte), s.cfgDivider ≠ 0 → bs.length ≤ 18 →
    ∃ t, execAll (.rst :: bs.map Instr.rxb) s = .next t ∧
      (∀ a < bs.length, readByte a t = .ok (bs.getD a 0)) ∧
      (∀ a < 19, bs.length ≤ a → readByte a t = .error (.unwrittenByte a))

/-- R27: the registers of `State.reset` hold the table's values, DIV what its port holds (which value that is, is the
model's choice, log 1), and no byte has been written. -/
def Obligations.ResetStateHoldsTheTable : Prop :=
  State.reset.mode = .running ∧ State.reset.cnt = 0 ∧ State.reset.acc = 0x00 ∧
  State.reset.err = .noError ∧ State.reset.div = State.reset.cfgDivider ∧ State.reset.div ≠ 0 ∧
  State.reset.mValid = false ∧ State.reset.mCur = 0 ∧ State.reset.mVolt = 0 ∧
  State.reset.mChk = 0x00 ∧ ∀ a < 19, readByte a State.reset = .error (.unwrittenByte a)

/-- R61, R104: in `Running`, at any `CNT`, RXF sets ERR to 1, ends the session, reports the number of bytes received,
and writes nothing else. -/
def Obligations.TransportFailureEndsTheSession : Prop :=
  ∀ s : State, Live s →
    ∃ t, exec .rxf s = .next t ∧ ChangesOnly [.mode, .err, .output] s t ∧ KeepsAllBytes s t ∧
      t.mode = .terminated ∧ t.err = .transportError ∧ t.err.code = 1 ∧
      t.output = s.output ++ [.fatal .transportError (BitVec.ofNat 8 s.cnt.val)]

/-- R128, R48 and the model's choice log 10: INIT records the ten bytes as sent to the instrument and touches no state
of the block, before the first RST too. -/
def Obligations.InitSendsTenBytesOnly : Prop :=
  ∀ s : State, ∃ t, exec .init s = .next t ∧ ChangesOnly [.sent] s t ∧ KeepsAllBytes s t ∧
    t.sent = s.sent ++ [0xFA, 0x05, 0x00, 0x00, 0x00, 0x00, 0x00, 0x00, 0x05, 0xF8]

/-- R123: before the first RST every event but RST, and a FRAME too, is refused. -/
def Obligations.NothingRunsBeforeTheFirstReset : Prop :=
  ∀ (i : Instr) (s : State), s.rstSeen = false → i ≠ .rst → i ≠ .init →
    exec i s = .refused .notReset

/-! ### RXB and its forms -/

/-- R62: RXB takes the form that MODE and CNT select, whatever the byte; in `Running` the byte is stored at `BUF[CNT]`
and CNT advances by one modulo 19. -/
def Obligations.ReceivedByteTakesTheSelectedForm : Prop :=
  ∀ (s : State) (d : Byte), s.rstSeen = true →
    (s.mode = .terminated → exec (.rxb d) s = .next (emit .none s)) ∧
    (s.mode = .running →
      (s.cnt.val = 0 → exec (.rxb d) s = exec (.rxbStart d) s) ∧
      (1 ≤ s.cnt.val → s.cnt.val ≤ 16 → exec (.rxb d) s = exec (.rxbPay d) s) ∧
      (s.cnt.val = 17 → exec (.rxb d) s = exec (.rxbChk d) s) ∧
      (s.cnt.val = 18 → exec (.rxb d) s = exec (.rxbStop d) s) ∧
      ∀ t, exec (.rxb d) s = .next t →
        readByte s.cnt.val t = .ok d ∧ t.cnt.val = (s.cnt.val + 1) % 19)

/-- R63: the byte at offset 0 is stored whatever it is, ACC is cleared, CNT becomes 1. -/
def Obligations.StartByteClearsTheAccumulator : Prop :=
  ∀ (s : State) (d : Byte), Live s → s.cnt = 0 →
    ∃ t, exec (.rxbStart d) s = .next t ∧ exec (.rxb d) s = .next t ∧
      ChangesOnly [.cnt, .acc, .output] s t ∧ KeepsBytes (fun a => a = s.cnt.val) s t ∧
      readByte 0 t = .ok d ∧ t.acc = 0x00 ∧ t.cnt = 1 ∧ t.output = s.output ++ [.none]

/-- R64: a payload byte is stored at BUF[CNT] and folded into ACC, CNT advances by one. -/
def Obligations.PayloadByteIsFolded : Prop :=
  ∀ (s : State) (d : Byte), Live s → 1 ≤ s.cnt.val → s.cnt.val ≤ 16 →
    ∃ t, exec (.rxbPay d) s = .next t ∧ exec (.rxb d) s = .next t ∧
      ChangesOnly [.cnt, .acc, .output] s t ∧ KeepsBytes (fun a => a = s.cnt.val) s t ∧
      readByte s.cnt.val t = .ok d ∧ t.acc = s.acc ^^^ d ∧ t.cnt.val = s.cnt.val + 1 ∧
      t.output = s.output ++ [.none]

/-- R65: the checksum byte is stored, ACC is not written, CNT becomes 18. -/
def Obligations.ChecksumByteIsStored : Prop :=
  ∀ (s : State) (d : Byte), Live s → s.cnt = 17 →
    ∃ t, exec (.rxbChk d) s = .next t ∧ exec (.rxb d) s = .next t ∧
      ChangesOnly [.cnt, .output] s t ∧ KeepsBytes (fun a => a = s.cnt.val) s t ∧
      readByte 17 t = .ok d ∧ t.cnt = 18 ∧ t.output = s.output ++ [.none]

/-- R80, R105: a wrong byte at offset 0 ends the session at the verdict, whatever the stop byte and the checksum. -/
def Obligations.WrongStartMarkerEndsTheSession : Prop :=
  ∀ (s : State) (b d : Byte), Live s → s.cnt = 18 → readByte 0 s = .ok b → b ≠ 0xFA →
    ∃ t, exec (.rxbStop d) s = .next t ∧ exec (.rxb d) s = .next t ∧
      ChangesOnly [.mode, .cnt, .err, .output] s t ∧ KeepsBytes (fun a => a = s.cnt.val) s t ∧
      readByte 18 t = .ok d ∧ t.cnt = 0 ∧ t.mode = .terminated ∧ t.err = .invalidStartByte ∧
      t.err.code = 2 ∧ t.output = s.output ++ [.fatal .invalidStartByte b]

/-- R81, R106: a right start byte and a wrong byte at offset 18 end the session, whatever the checksum. -/
def Obligations.WrongStopMarkerEndsTheSession : Prop :=
  ∀ (s : State) (d : Byte), Live s → s.cnt = 18 → readByte 0 s = .ok 0xFA → d ≠ 0xF8 →
    ∃ t, exec (.rxbStop d) s = .next t ∧ exec (.rxb d) s = .next t ∧
      ChangesOnly [.mode, .cnt, .err, .output] s t ∧ KeepsBytes (fun a => a = s.cnt.val) s t ∧
      readByte 18 t = .ok d ∧ t.cnt = 0 ∧ t.mode = .terminated ∧ t.err = .invalidStopByte ∧
      t.err.code = 3 ∧ t.output = s.output ++ [.fatal .invalidStopByte d]

/-- R83, R107: right markers and a wrong checksum give a diagnostic; the session goes on and the latches keep the last
trusted frame. -/
def Obligations.WrongChecksumIsRecoverable : Prop :=
  ∀ (s : State) (k : Byte), Live s → s.cnt = 18 → readByte 0 s = .ok 0xFA →
    readByte 17 s = .ok k → s.acc ≠ k →
    ∃ t, exec (.rxbStop 0xF8) s = .next t ∧ exec (.rxb 0xF8) s = .next t ∧
      ChangesOnly [.cnt, .err, .output] s t ∧ KeepsBytes (fun a => a = s.cnt.val) s t ∧
      readByte 18 t = .ok 0xF8 ∧ t.cnt = 0 ∧ t.mode = .running ∧ t.err = .invalidChecksum ∧
      t.err.code = 4 ∧ t.output = s.output ++ [.diag s.acc k]

/-- R84, R90, R91: a trusted frame latches and emits the two numerators, the checksum byte and the divider, and clears
ERR. The numerators are written out from the formulas of R90 and R91. -/
def Obligations.TrustedFrameIsDelivered : Prop :=
  ∀ (s : State) (ch cl vh vl : Byte), Live s → s.cnt = 18 → readByte 0 s = .ok 0xFA →
    readByte 2 s = .ok ch → readByte 3 s = .ok cl → readByte 4 s = .ok vh → readByte 5 s = .ok vl →
    readByte 17 s = .ok s.acc →
    ∃ (t : State) (rawCur rawVolt : Int),
      rawCur = ch.toNat * 256 + cl.toNat ∧ rawVolt = vh.toNat * 256 + vl.toNat ∧
      exec (.rxbStop 0xF8) s = .next t ∧ exec (.rxb 0xF8) s = .next t ∧
      ChangesOnly [.cnt, .err, .mValid, .mCur, .mVolt, .mChk, .output] s t ∧
      KeepsBytes (fun a => a = s.cnt.val) s t ∧ readByte 18 t = .ok 0xF8 ∧
      t.cnt = 0 ∧ t.mode = .running ∧ t.err = .noError ∧ t.mValid = true ∧ t.mChk = s.acc ∧
      t.mCur.toInt = rawCur - Int.tdiv rawCur 256 * 16 ∧
      t.mVolt.toInt = (rawVolt - 320) - Int.tdiv (rawVolt - 5120) 256 * 16 ∧
      t.output = s.output ++ [.meas t.mCur t.mVolt t.mChk s.div]

/-- R66, R85, R87: with the frame's bytes in the buffer, RXB.STOP always completes, CNT returns to 0 and ACC is kept;
exactly one of the three strobes is given, with MODE, ERR and the latches as the table of R87 has them (the latches of
a trusted frame are its numerators, its checksum byte and 1, and the `Meas` carries them), and `ok` exactly for a trusted
frame (R78). -/
def Obligations.EveryCompleteFrameGetsOneVerdict : Prop :=
  ∀ (s : State) (d : Byte), Inv s → Live s → s.cnt = 18 →
    ∃ (t : State) (o : Output) (b k : Byte),
      exec (.rxbStop d) s = .next t ∧ t.output = s.output ++ [o] ∧ t.cnt = 0 ∧ t.acc = s.acc ∧
      readByte 0 s = .ok b ∧ readByte 17 s = .ok k ∧
      KeepsBytes (fun a => a = s.cnt.val) s t ∧ readByte 18 t = .ok d ∧
      (o.ok = true ↔ b = 0xFA ∧ d = 0xF8 ∧ k = checksum (payloadBytes s 16)) ∧
      ((o.ok = true ∧ o.isDiag = false ∧ o.isFatal = false ∧
          t.mode = .running ∧ t.err = .noError ∧ t.mValid = true ∧
          o = .meas t.mCur t.mVolt t.mChk s.div ∧ t.mChk = k ∧
          (∃ cur volt, memRead cfg 2 2 s = .ok cur ∧ memRead cfg 4 2 s = .ok volt ∧
            t.mCur.toInt = curNum cfg cur ∧ t.mVolt.toInt = voltNum cfg volt) ∧
          ChangesOnly [.cnt, .err, .mValid, .mCur, .mVolt, .mChk, .output] s t) ∨
       (o.ok = false ∧ o.isDiag = true ∧ o.isFatal = false ∧ t.mode = .running ∧
          t.err = .invalidChecksum ∧ ChangesOnly [.cnt, .err, .output] s t) ∨
       (o.ok = false ∧ o.isDiag = false ∧ o.isFatal = true ∧ t.mode = .terminated ∧
          (t.err = .invalidStartByte ∨ t.err = .invalidStopByte) ∧
          ChangesOnly [.mode, .cnt, .err, .output] s t))

/-- The model's choice (log 8): a positional form in `Running` at a CNT that selects another form is refused. -/
def Obligations.FormsOutOfPositionAreRefused : Prop :=
  ∀ (s : State) (d : Byte), Live s →
    (s.cnt.val ≠ 0 → exec (.rxbStart d) s = .refused .formNotSelected) ∧
    (s.cnt.val = 0 ∨ 17 ≤ s.cnt.val → exec (.rxbPay d) s = .refused .formNotSelected) ∧
    (s.cnt.val ≠ 17 → exec (.rxbChk d) s = .refused .formNotSelected) ∧
    (s.cnt.val ≠ 18 → exec (.rxbStop d) s = .refused .formNotSelected)

/-! ### FRAME -/

/-- R30, R66, R77, R79 to R84: nineteen bytes received one by one from a frame boundary are judged as one read of
nineteen bytes: stored in order of arrival, no output before the last, and then the first failing check of start,
stop and checksum decides. -/
def Obligations.NineteenBytesAreJudgedAsOneRead : Prop :=
  ∀ (s : State) (bs : List Byte), Live s → s.cnt = 0 → bs.length = 19 →
    ∃ (t : State) (o : Output),
      execAll (bs.map Instr.rxb) s = .next t ∧ t.cnt = 0 ∧
      (∀ a < 19, readByte a t = .ok (bs.getD a 0)) ∧
      t.acc = checksum ((bs.drop 1).take 16) ∧
      t.output = s.output ++ List.replicate 18 .none ++ [o] ∧
      ChangesOnly [.mode, .cnt, .acc, .err, .mValid, .mCur, .mVolt, .mChk, .output] s t ∧
      (if bs.getD 0 0 ≠ 0xFA then
        o = .fatal .invalidStartByte (bs.getD 0 0) ∧ t.mode = .terminated ∧
          t.err = .invalidStartByte ∧
          ChangesOnly [.mode, .cnt, .acc, .err, .output] s t
      else if bs.getD 18 0 ≠ 0xF8 then
        o = .fatal .invalidStopByte (bs.getD 18 0) ∧ t.mode = .terminated ∧
          t.err = .invalidStopByte ∧
          ChangesOnly [.mode, .cnt, .acc, .err, .output] s t
      else if checksum ((bs.drop 1).take 16) ≠ bs.getD 17 0 then
        o = .diag (checksum ((bs.drop 1).take 16)) (bs.getD 17 0) ∧ t.mode = .running ∧
          t.err = .invalidChecksum ∧ ChangesOnly [.cnt, .acc, .err, .output] s t
      else
        o = .meas t.mCur t.mVolt (bs.getD 17 0) s.div ∧ t.mode = .running ∧ t.err = .noError ∧
          t.mValid = true ∧ t.mChk = bs.getD 17 0 ∧
          t.mCur.toInt = curNum cfg ((bs.getD 2 0).toNat * 256 + (bs.getD 3 0).toNat) ∧
          t.mVolt.toInt = voltNum cfg ((bs.getD 4 0).toNat * 256 + (bs.getD 5 0).toNat))

/-- R56, R57 and log 9: FRAME does what its nineteen RXB events do, one after another, from any state. -/
def Obligations.FrameIsNineteenReceivedBytes : Prop :=
  ∀ (s : State) (p : List Byte) (c : Byte),
    exec (.frame p c) s =
      execAll ((0xFA :: p ++ [c, 0xF8]).map Instr.rxb) s ∧
    (p.length = 16 → ((0xFA : Byte) :: p ++ [c, 0xF8]).length = 19)

/-- R74 and R84: a FRAME with the right checksum byte, taken at a frame boundary, yields a measurement; only the
frame's own state changes and the nineteen bytes are in the buffer. -/
def Obligations.GoodFrameYieldsItsMeasurement : Prop :=
  ∀ (s : State) (p : List Byte), Live s → s.cnt = 0 → p.length = 16 →
    ∃ t, exec (.frame p (checksum p)) s = .next t ∧
      t.output = s.output ++ List.replicate 18 .none ++ [.meas t.mCur t.mVolt (checksum p) s.div] ∧
      t.mCur.toInt = curNum cfg ((p.getD 1 0).toNat * 256 + (p.getD 2 0).toNat) ∧
      t.mVolt.toInt = voltNum cfg ((p.getD 3 0).toNat * 256 + (p.getD 4 0).toNat) ∧
      t.mChk = checksum p ∧ t.mValid = true ∧ t.err = .noError ∧ t.acc = checksum p ∧
      ChangesOnly [.acc, .err, .mValid, .mCur, .mVolt, .mChk, .output] s t ∧
      (∀ a, 1 ≤ a → a ≤ 16 → readByte a t = .ok (p.getD (a - 1) 0)) ∧
      readByte 0 t = .ok 0xFA ∧ readByte 17 t = .ok (checksum p) ∧ readByte 18 t = .ok 0xF8

/-- R74: (a) self-inverse, (b) appending the checksum, (c) the concrete value, (d) a frame with the right checksum byte
validates, and with one payload bit flipped it gives `InvalidChecksum` and goes on. -/
def Obligations.ChecksumRoundTripAndSingleBitErrors : Prop :=
  (∀ bs : List Byte, checksum bs ^^^ checksum bs = 0x00) ∧
  (∀ bs : List Byte, checksum (bs ++ [checksum bs]) = 0x00) ∧
  checksum [1, 2, 3] = 0x00 ∧
  (∀ (s : State) (p : List Byte), Live s → s.cnt = 0 → p.length = 16 →
    (∃ t, exec (.frame p (checksum p)) s = .next t ∧ t.lastOutput.ok = true ∧ t.mode = .running) ∧
    (∀ j < 16, ∀ b < 8,
      ∃ (t : State) (computed : Byte),
        exec (.frame (p.set j (p.getD j 0 ^^^ BitVec.twoPow 8 b)) (checksum p)) s = .next t ∧
        computed ≠ checksum p ∧ t.mode = .running ∧ t.err = .invalidChecksum ∧
        t.output = s.output ++ List.replicate 18 .none ++ [.diag computed (checksum p)]))

/-- R52: the reserved bytes at offsets 1 and 6 to 16 never reach the numerators: two trusted frames with the same
field bytes give the same measurement but for the checksum byte. -/
def Obligations.ReservedBytesNeverReachTheNumerators : Prop :=
  ∀ (s : State) (p q : List Byte), Live s → s.cnt = 0 → p.length = 16 → q.length = 16 →
    (∀ j, 1 ≤ j → j ≤ 4 → p.getD j 0 = q.getD j 0) →
    ∃ (t u : State) (cur volt : I32),
      exec (.frame p (checksum p)) s = .next t ∧ exec (.frame q (checksum q)) s = .next u ∧
      t.lastOutput = .meas cur volt (checksum p) s.div ∧
      u.lastOutput = .meas cur volt (checksum q) s.div

/-- R37, R61, R103: a frame cut short by a transport failure gives `TransportError` with the number of its bytes,
whatever these bytes are, and no verdict. -/
def Obligations.CutFrameReportsTransportErrorOnly : Prop :=
  ∀ (s : State) (bs : List Byte), Live s → s.cnt = 0 → bs.length ≤ 18 →
    ∃ t, execAll (bs.map Instr.rxb ++ [.rxf]) s = .next t ∧
      t.output = s.output ++ List.replicate bs.length .none ++
        [.fatal .transportError (BitVec.ofNat 8 bs.length)] ∧
      t.mode = .terminated ∧ t.err = .transportError ∧ t.cnt.val = bs.length ∧
      ChangesOnly [.mode, .cnt, .acc, .err, .output] s t ∧
      (∀ a < bs.length, readByte a t = .ok (bs.getD a 0)) ∧ KeepsBytes (fun a => a < bs.length) s t

/-- R68, R85: a run of received bytes, with IDLE events between them, that does not end the session leaves CNT at
(c + k) mod 19 and has given exactly floor((c + k) / 19) verdicts. -/
def Obligations.PositionAndVerdictsFollowTheByteCount : Prop :=
  ∀ (is : List Instr) (s t : State), Live s →
    (∀ i ∈ is, i = .idle ∨ ∃ d, i = .rxb d) →
    execAll is s = .next t → t.mode = .running →
    t.cnt.val = (s.cnt.val + (is.filter fun i => decide (i ≠ .idle)).length) % 19 ∧
    verdictCount (newOutputs s t) =
      (s.cnt.val + (is.filter fun i => decide (i ≠ .idle)).length) / 19

/-! ### `Terminated`, errors and the mode -/

/-- R67: in `Terminated` every event but RST, and the nineteen bytes of a FRAME, write no state and emit `None`; only
RST leaves the mode. -/
def Obligations.TerminatedDropsEverythingButReset : Prop :=
  ∀ (i : Instr) (s : State), s.rstSeen = true → s.mode = .terminated →
    (isEvent i = true → i ≠ .rst →
      ∃ t, exec i s = .next t ∧ ChangesOnly [.output] s t ∧ KeepsAllBytes s t ∧
        t.output = s.output ++ [.none]) ∧
    (∀ p c, i = .frame p c →
      ∃ t, exec i s = .next t ∧ ChangesOnly [.output] s t ∧ KeepsAllBytes s t ∧
        t.output = s.output ++ List.replicate (p.length + 3) .none) ∧
    (∀ t, exec i s = .next t → t.mode = .running → i = .rst)

/-- R110, R138: a step that brings the machine back to `Running` has taken an RST. -/
def Obligations.OnlyResetLeavesTerminatedInAStep : Prop :=
  ∀ s t : State, s.mode = .terminated → step s = .next t → t.mode = .running →
    ∃ x xs, s.input = x :: xs ∧ decode cfg x.wire = .ok .rst ∧ t.div = x.cfgDivider ∧ t.div ≠ 0

/-- R121: every row of the table of transitions of MODE, for RXB and its forms alike. -/
def Obligations.ModeTransitionsAreTheTable : Prop :=
  ∀ (i : Instr) (s t : State), exec i s = .next t →
    (i = .rst → t.mode = .running ∧ t.output = s.output ++ [.none]) ∧
    (s.mode = .running → i = .idle → t.mode = .running ∧ t.output = s.output ++ [.none]) ∧
    (s.mode = .running → i = .rxf → t.mode = .terminated ∧
      ∃ n, t.output = s.output ++ [.fatal .transportError n]) ∧
    (∀ d, byteOf i = some d → s.mode = .running →
      (s.cnt.val ≠ 18 → t.mode = .running ∧ t.output = s.output ++ [.none]) ∧
      (s.cnt.val = 18 → ∀ b k, readByte 0 s = .ok b → readByte 17 s = .ok k →
        (b = 0xFA → d = 0xF8 → s.acc = k → t.mode = .running ∧
          ∃ cur volt, t.output = s.output ++ [.meas cur volt k s.div]) ∧
        (b = 0xFA → d = 0xF8 → s.acc ≠ k → t.mode = .running ∧
          t.output = s.output ++ [.diag s.acc k]) ∧
        (b ≠ 0xFA → t.mode = .terminated ∧ t.output = s.output ++ [.fatal .invalidStartByte b]) ∧
        (b = 0xFA → d ≠ 0xF8 → t.mode = .terminated ∧
          t.output = s.output ++ [.fatal .invalidStopByte d]))) ∧
    (s.mode = .terminated → isEvent i = true → i ≠ .rst →
      t.mode = .terminated ∧ t.output = s.output ++ [.none])

/-- R100, R108, R112: an event's error is always reported in its own output: a fatal output ends the session, a
diagnostic leaves MODE alone, `Meas`, `Diag` and `Fatal` each set ERR to the code they report (0 for `Meas`), and
neither ERR nor MODE changes, outside RST, without such an output. The byte at offset 18 in `Running` always gives a
verdict, a failure of the transport always a fatal output; so a checksum error is reported even when ERR was 4 before. -/
def Obligations.EveryErrorIsReported : Prop :=
  ∀ (i : Instr) (s t : State), isEvent i = true → i ≠ .rst → exec i s = .next t →
    ∃ o, t.output = s.output ++ [o] ∧
      (∀ e info, o = .fatal e info → s.mode = .running ∧ t.mode = .terminated ∧ t.err = e.err) ∧
      (∀ a k, o = .diag a k → t.mode = s.mode ∧ t.err = .invalidChecksum) ∧
      (∀ cur volt chk dv, o = .meas cur volt chk dv → t.mode = s.mode ∧ t.err = .noError) ∧
      (t.mode ≠ s.mode → o.isFatal = true) ∧
      (t.err ≠ s.err → o.isVerdict = true) ∧
      (s.mode = .running → i = .rxf → o = .fatal .transportError (BitVec.ofNat 8 s.cnt.val)) ∧
      (∀ d, byteOf i = some d → s.mode = .running → s.cnt = 18 →
        o.isVerdict = true ∧
        (t.err = .invalidChecksum → ∃ k, readByte 17 s = .ok k ∧ o = .diag s.acc k) ∧
        (t.err = .invalidStartByte → ∃ b, readByte 0 s = .ok b ∧ o = .fatal .invalidStartByte b) ∧
        (t.err = .invalidStopByte → o = .fatal .invalidStopByte d))

/-- R58, R85: every event emits exactly one output, a FRAME nineteen of which at most one is a verdict, INIT none. -/
def Obligations.OneOutputPerEvent : Prop :=
  ∀ (i : Instr) (s t : State), i.wellFormed = true → exec i s = .next t →
    ∃ os, t.output = s.output ++ os ∧ verdictCount os ≤ 1 ∧
      (isEvent i = true → os.length = 1) ∧
      (∀ p c, i = .frame p c → os.length = 19) ∧
      (i = .init → os = [])

/-! ### What each register depends on -/

/-- R18, R42: DIV is loaded by RST alone, from the port; a change of the port has no effect on any other operation. -/
def Obligations.DividerIsSampledAtResetOnly : Prop :=
  (∀ s t : State, exec .rst s = .next t → t.div = s.cfgDivider) ∧
  (∀ (i : Instr) (s t : State) (n : U16), i ≠ .rst → exec i s = .next t →
    t.div = s.div ∧ exec i { s with cfgDivider := n } = .next { t with cfgDivider := n })

/-- R16, R17, R109: outside RST the measurement latches and M_VALID change only with a `Meas` output of the same
operation, and then hold its values. -/
def Obligations.LatchesFollowMeasurementsOnly : Prop :=
  ∀ (i : Instr) (s t : State), i ≠ .rst → exec i s = .next t →
    ChangesOnly [.mode, .cnt, .acc, .err, .output, .sent] s t ∨
    (t.mValid = true ∧ Output.meas t.mCur t.mVolt t.mChk s.div ∈ newOutputs s t)

/-- R71: the update rules of ACC, one clause per row. -/
def Obligations.AccumulatorUpdatesAreTheTable : Prop :=
  ∀ (i : Instr) (s t : State), exec i s = .next t →
    (i = .rst → t.acc = 0x00) ∧
    (i = .idle ∨ i = .rxf ∨ i = .init → t.acc = s.acc) ∧
    (s.mode = .terminated → i ≠ .rst → t.acc = s.acc) ∧
    (∀ d, byteOf i = some d → s.mode = .running →
      (s.cnt.val = 0 → t.acc = 0x00) ∧
      (1 ≤ s.cnt.val → s.cnt.val ≤ 16 → t.acc = s.acc ^^^ d) ∧
      (17 ≤ s.cnt.val → t.acc = s.acc))

/-- R13, R25: a cell of BUF is written only by a byte event, only at offset CNT, with the received byte. So does the
value a rule can read there; the one other event that touches values is RST, after which no byte has one (R21; log 6). -/
def Obligations.BufferIsWrittenOnlyAtTheCount : Prop :=
  ∀ (i : Instr) (s t : State) (a : Nat), (∀ p c, i ≠ .frame p c) → exec i s = .next t →
    (t.buf.read a ≠ s.buf.read a ∨ (i ≠ .rst ∧ readByte a t ≠ readByte a s) →
      a = s.cnt.val ∧ s.mode = .running ∧
        ∃ d, byteOf i = some d ∧ t.buf.read a = some d ∧ readByte a t = .ok d) ∧
    (i = .rst → readByte a t ≠ readByte a s → readByte a t = .error (.unwrittenByte a))

/-- R21: bytes at and after CNT, left by an earlier frame or not written since the last RST, are never observed: two
states that differ only there go on alike. -/
def Obligations.StaleBytesAreNeverObserved : Prop :=
  ∀ (i : Instr) (s s' t : State), SameButStale s s' → exec i s = .next t →
    ∃ t', exec i s' = .next t' ∧ SameButStale t t'

/-! ### The invariant -/

/-- R20 and the canonical memory: every step from a state that meets the invariant keeps it. -/
def Obligations.StepKeepsTheInvariant : Prop :=
  ∀ s t : State, Inv s → step s = .next t → Inv t

/-- R20, R27: the state after reset meets the invariant. -/
def Obligations.ResetMeetsTheInvariant : Prop := Inv State.reset

/-- R20, R21, R39: from a state that meets the invariant no operation reads a byte that is not there, so no step
faults. -/
def Obligations.NoStepFaultsUnderTheInvariant : Prop :=
  ∀ (s : State) (f : Fault), Inv s → step s ≠ .fault f

/-- 93 U2, R21: a byte that has not been written since the last RST (log 6) has no value: its read faults by name. That a
read of an offset beyond 18 is the fault `offsetOutOfRange` is the model's choice (log 5, log 20): R39 says that there is no
out-of-range fault to define. -/
def Obligations.AbsentBytesFault : Prop :=
  ∀ (s : State) (a : Nat),
    (19 ≤ a → readByte a s = .error (.offsetOutOfRange a)) ∧
    (a < 19 → s.bufWritten[a]? ≠ some true ∨ s.buf.read a = none →
      readByte a s = .error (.unwrittenByte a)) ∧
    (∀ b, a < 19 → s.bufWritten[a]? = some true → s.buf.read a = some b → readByte a s = .ok b)

/-! ### Ports -/

/-- R22, R24, R101: at most one strobe is 1; `out_code`, `out_info` and `out_computed` are as the table says; `mode`
and `err` show the codes, the other ports the registers. Which output the strobes and `out_*` show is the model's choice
(log 19): the one emitted last, and `None` before any has been emitted. -/
def Obligations.PortsShowTheOutput : Prop :=
  ∀ s : State,
    (∀ os o, s.output = os ++ [o] → s.lastOutput = o) ∧
    (s.output = [] → s.lastOutput = .none) ∧
    (s.lastOutput = .none → s.ports.ok = false ∧ s.ports.diag = false ∧ s.ports.fatal = false ∧
      s.ports.outCode = 0 ∧ s.ports.outInfo = 0 ∧ s.ports.outComputed = 0) ∧
    (∀ cur volt chk dv, s.lastOutput = .meas cur volt chk dv → s.ports.ok = true ∧
      s.ports.diag = false ∧ s.ports.fatal = false ∧
      s.ports.outCode = 0 ∧ s.ports.outInfo = 0 ∧ s.ports.outComputed = 0) ∧
    (∀ a k, s.lastOutput = .diag a k → s.ports.ok = false ∧ s.ports.diag = true ∧
      s.ports.fatal = false ∧ s.ports.outCode = 4 ∧ s.ports.outInfo = k ∧ s.ports.outComputed = a) ∧
    (∀ e info, s.lastOutput = .fatal e info → s.ports.ok = false ∧ s.ports.diag = false ∧
      s.ports.fatal = true ∧ s.ports.outInfo = info ∧ s.ports.outComputed = 0 ∧
      (e = .transportError → s.ports.outCode = 1) ∧ (e = .invalidStartByte → s.ports.outCode = 2) ∧
      (e = .invalidStopByte → s.ports.outCode = 3)) ∧
    (s.mode = .running → s.ports.mode = 0) ∧ (s.mode = .terminated → s.ports.mode = 1) ∧
    (s.err = .noError → s.ports.err = 0) ∧ (s.err = .transportError → s.ports.err = 1) ∧
    (s.err = .invalidStartByte → s.ports.err = 2) ∧ (s.err = .invalidStopByte → s.ports.err = 3) ∧
    (s.err = .invalidChecksum → s.ports.err = 4) ∧
    s.ports.mValid = s.mValid ∧ s.ports.mCur = s.mCur ∧ s.ports.mVolt = s.mVolt ∧
    s.ports.mChk = s.mChk ∧ s.ports.div = s.div

/-- R24: in the event that emits `Meas` the latches, and so the ports, already hold its values. -/
def Obligations.MeasurementIsVisibleWithItsStrobe : Prop :=
  ∀ (i : Instr) (s t : State) (cur volt : I32) (chk : Byte) (dv : U16),
    isEvent i = true → exec i s = .next t → t.lastOutput = .meas cur volt chk dv →
    t.ports.ok = true ∧ t.ports.mValid = true ∧ t.ports.mCur = cur ∧ t.ports.mVolt = volt ∧
    t.ports.mChk = chk ∧ t.ports.div = dv

/-! ### The checksum and the decoder -/

/-- R75: order, concatenation, a flipped checksum bit, undetected changes, the one trusted checksum byte, sixteen equal
bytes. -/
def Obligations.ChecksumLawsHold : Prop :=
  (∀ p q : List Byte, p.Perm q → checksum p = checksum q) ∧
  (∀ p q : List Byte, checksum (p ++ q) = checksum p ^^^ checksum q) ∧
  (∀ (a : Byte) (b : Nat), b < 8 → chkOk a (a ^^^ BitVec.twoPow 8 b) = false) ∧
  (∀ (p q : List Byte) (k l : Byte), checksum (p ++ [k]) = checksum (q ++ [l]) →
    chkOk (checksum p) k = chkOk (checksum q) l) ∧
  (∀ p : List Byte, p.length = 16 → ∃! k, chkOk (checksum p) k = true) ∧
  (∀ b : Byte, checksum (List.replicate 16 b) = 0x00)

/-- R69, R73: bit `j` of the checksum is the parity of bit `j` over all the bytes; the empty checksum is 0. -/
def Obligations.ChecksumIsBitwiseParity : Prop :=
  checksum [] = 0x00 ∧
  ∀ (bs : List Byte) (j : Nat), j < 8 →
    (checksum bs).getLsbD j = decide ((bs.filter fun b => b.getLsbD j).length % 2 = 1)

/-- R31, R50: a field is assembled high byte first, both bytes unsigned. -/
def Obligations.FieldsAreReadHighByteFirst : Prop :=
  ∀ (s : State) (a : Nat) (b1 b2 : Byte), readByte a s = .ok b1 → readByte (a + 1) s = .ok b2 →
    memRead cfg a 2 s = .ok (b1 ++ b2).toNat ∧ memRead cfg a 2 s = .ok (b1.toNat * 256 + b2.toNat)

/-- R97: the closed forms of the numerators over all 65536 field values. -/
def Obligations.NumeratorsHaveTheClosedForms : Prop :=
  ∀ b1 b2 : Nat, b1 < 256 → b2 < 256 →
    curNum cfg ((b1 * 256 + b2 : Nat) : Int) = 240 * b1 + b2 ∧
    voltNum cfg ((b1 * 256 + b2 : Nat) : Int) =
      (if b1 < 20 ∧ b2 ≠ 0 then 240 * b1 + b2 - 16 else 240 * b1 + b2 : Int)

/-- R98: ranges with the places where they are attained, the sign of the voltage numerator, and that neither numerator
is injective or monotonic; the exact current does not increase with the divider. -/
def Obligations.NumeratorRangesAndShape : Prop :=
  (∀ r : Nat, r < 65536 →
    0 ≤ curNum cfg r ∧ curNum cfg r ≤ 61455 ∧ -15 ≤ voltNum cfg r ∧ voltNum cfg r ≤ 61455 ∧
    (voltNum cfg r < 0 ↔ 1 ≤ r ∧ r ≤ 15)) ∧
  curNum cfg 0x0000 = 0 ∧ curNum cfg 0xFFFF = 61455 ∧ voltNum cfg 0x0001 = -15 ∧ voltNum cfg 0x000F = -1 ∧
  voltNum cfg 0xFFFF = 61455 ∧
  curNum cfg 0x00F0 = 240 ∧ curNum cfg 0x0100 = 240 ∧ voltNum cfg 0x0000 = voltNum cfg 0x0010 ∧
  curNum cfg 0x0100 < curNum cfg 0x00FF ∧ voltNum cfg 0x0001 < voltNum cfg 0x0000 ∧
  (∀ (r : Nat) (d e : U16), r < 65536 → d ≠ 0 → d.toNat ≤ e.toNat →
    current (narrow cfg (curNum cfg r)) e ≤ current (narrow cfg (curNum cfg r)) d)

/-- R92: neither the numerators nor any intermediate value of R90 and R91 overflows a signed width of 18 bits or more,
so the `i32` of the latches holds the exact integer. -/
def Obligations.DecoderNeverOverflows : Prop :=
  ∀ (w r : Nat), 18 ≤ w → r < 65536 →
    ∀ x ∈ [(r : Int), Int.tdiv r 256, Int.tdiv r 256 * 16, curNum cfg r, (r : Int) - 320,
        (r : Int) - 5120, Int.tdiv ((r : Int) - 5120) 256, Int.tdiv ((r : Int) - 5120) 256 * 16,
        voltNum cfg r],
      (BitVec.ofInt w x).toInt = x

/-- R93, R94, R95: the host's final division, done with exact rationals as its number format, gives the values that a
measurement denotes: the integer numerators are divided last. -/
def Obligations.ExactFinalDivisionGivesTheMeasurement : Prop :=
  ∀ (r q : Nat) (d : U16), r < 65536 → q < 65536 → d ≠ 0 →
    hostVoltage cfg (FloatFmt.mk (fun x : Int => (x : Rat)) (fun a b => a / b)) (narrow cfg (voltNum cfg r)) =
      ((((r : Int) - 320) - Int.tdiv ((r : Int) - 5120) 256 * 16 : Int) : Rat) / 1000 ∧
    hostCurrent (FloatFmt.mk (fun x : Int => (x : Rat)) (fun a b => a / b)) (narrow cfg (curNum cfg q)) d =
      (((q : Int) - Int.tdiv (q : Int) 256 * 16 : Int) : Rat) / (d.toNat : Rat) ∧
    hostVoltage cfg (FloatFmt.mk (fun x : Int => (x : Rat)) (fun a b => a / b)) (narrow cfg (voltNum cfg r)) =
      voltage cfg (narrow cfg (voltNum cfg r)) ∧
    hostCurrent (FloatFmt.mk (fun x : Int => (x : Rat)) (fun a b => a / b)) (narrow cfg (curNum cfg q)) d =
      current (narrow cfg (curNum cfg q)) d
end

