-- ==== Sys2Proof/Laws/Config.lean ====
section
/-! SUPPORT. The values of the configuration, one lemma per field (00_scope R4, R5). -/

namespace Sys2Proof

@[simp] theorem cfg_startMarker : Config.cfg.startMarker = 0xFA := rfl
@[simp] theorem cfg_stopMarker : Config.cfg.stopMarker = 0xF8 := rfl
@[simp] theorem cfg_payFirst : Config.cfg.payFirst = 1 := rfl
@[simp] theorem cfg_payLast : Config.cfg.payLast = 16 := rfl
@[simp] theorem cfg_chkOffset : Config.cfg.chkOffset = 17 := rfl
@[simp] theorem cfg_stopOffset : Config.cfg.stopOffset = 18 := rfl
@[simp] theorem cfg_curOffset : Config.cfg.curOffset = 2 := rfl
@[simp] theorem cfg_voltOffset : Config.cfg.voltOffset = 4 := rfl
@[simp] theorem cfg_fieldRadix : Config.cfg.fieldRadix = 256 := rfl
@[simp] theorem cfg_corrMul : Config.cfg.corrMul = 16 := rfl
@[simp] theorem cfg_vBias : Config.cfg.vBias = 320 := rfl
@[simp] theorem cfg_vCorrBias : Config.cfg.vCorrBias = 5120 := rfl
@[simp] theorem cfg_voltDivisor : Config.cfg.voltDivisor = 1000 := rfl
@[simp] theorem cfg_intWidth : Config.cfg.intWidth = 32 := rfl
@[simp] theorem cfg_supported : Config.cfg.supported = true := rfl

end Sys2Proof
end

