-- ==== Sys2Proof/Laws/Encoding.lean ====
section
/-! SUPPORT. The packed words of the two byte formats: which byte lies where. -/

namespace Sys2Proof

theorem packBytes_append (n : Nat) (bs : List Byte) (b : Byte) :
    packBytes n (bs ++ [b]) = (packBytes n bs <<< 8) ||| b.setWidth n := by
  simp [packBytes, List.foldl_append]

/-- Byte `k` from the least significant end of a packed word is byte `k` from the end of the list. -/
theorem extract_packBytes (n : Nat) (bs : List Byte) (k : Nat) (h : 8 * k + 8 ≤ n) :
    (packBytes n bs).extractLsb' (8 * k) 8 = bs.reverse.getD k 0 := by
  induction bs using List.reverseRecOn generalizing k with
  | nil => ext j hj; simp [packBytes]
  | append_singleton bs b ih =>
    rw [packBytes_append]
    cases k with
    | zero =>
      ext j hj
      simp [show j < n by omega, show j < 8 by omega]
    | succ k =>
      have := ih k (by omega)
      rw [List.reverse_append, List.reverse_singleton, List.singleton_append, List.getD_cons_succ,
        ← this]
      ext j hj
      simp [show 8 * (k + 1) + j < n by omega, show ¬8 * (k + 1) + j < 8 by omega,
        show 8 * (k + 1) + j - 8 = 8 * k + j by omega,
        BitVec.getLsbD_of_ge b (8 * (k + 1) + j) (by omega),
        BitVec.getLsbD_eq_getElem (show 8 * k + j < n by omega)]

/-- A frame's word holds the byte at frame offset `i` where the decoder reads it. -/
theorem frameByte_packFrame (bs : List Byte) (h : bs.length = 19) (i : Nat) (hi : i < 19) :
    frameByte (packBytes 152 bs) i = bs.getD i 0 := by
  rw [frameByte, extract_packBytes 152 bs (18 - i) (by omega)]
  simp [List.getD_eq_getElem?_getD, h, hi, show 18 - i < 19 by omega,
    show 19 - 1 - (18 - i) = i by omega]

theorem frameBytes_length (cfg : Cfg) (p : List Byte) (c : Byte) :
    (frameBytes cfg p c).length = p.length + 3 := by
  simp [frameBytes]

end Sys2Proof
end

