-- ==== Sys2Proof/Laws/State.lean ====
section
/-! SUPPORT. One lemma per field per update of the state: what each shared update leaves and what it writes. -/

namespace Sys2Proof.Machine

/-! ### `emit` -/

@[simp] theorem emit_mode (o : Output) (s : State) : (emit o s).mode = s.mode := rfl
@[simp] theorem emit_cnt (o : Output) (s : State) : (emit o s).cnt = s.cnt := rfl
@[simp] theorem emit_buf (o : Output) (s : State) : (emit o s).buf = s.buf := rfl
@[simp] theorem emit_acc (o : Output) (s : State) : (emit o s).acc = s.acc := rfl
@[simp] theorem emit_err (o : Output) (s : State) : (emit o s).err = s.err := rfl
@[simp] theorem emit_div (o : Output) (s : State) : (emit o s).div = s.div := rfl
@[simp] theorem emit_mValid (o : Output) (s : State) : (emit o s).mValid = s.mValid := rfl
@[simp] theorem emit_mCur (o : Output) (s : State) : (emit o s).mCur = s.mCur := rfl
@[simp] theorem emit_mVolt (o : Output) (s : State) : (emit o s).mVolt = s.mVolt := rfl
@[simp] theorem emit_mChk (o : Output) (s : State) : (emit o s).mChk = s.mChk := rfl
@[simp] theorem emit_bufWritten (o : Output) (s : State) : (emit o s).bufWritten = s.bufWritten := rfl
@[simp] theorem emit_rstSeen (o : Output) (s : State) : (emit o s).rstSeen = s.rstSeen := rfl
@[simp] theorem emit_cfgDivider (o : Output) (s : State) : (emit o s).cfgDivider = s.cfgDivider := rfl
@[simp] theorem emit_input (o : Output) (s : State) : (emit o s).input = s.input := rfl
@[simp] theorem emit_output (o : Output) (s : State) : (emit o s).output = s.output ++ [o] := rfl
@[simp] theorem emit_sent (o : Output) (s : State) : (emit o s).sent = s.sent := rfl

/-! ### `memWrite` -/

@[simp] theorem memWrite_mode (a : Offset) (b : Byte) (s : State) : (memWrite a b s).mode = s.mode := rfl
@[simp] theorem memWrite_cnt (a : Offset) (b : Byte) (s : State) : (memWrite a b s).cnt = s.cnt := rfl
@[simp] theorem memWrite_buf (a : Offset) (b : Byte) (s : State) : (memWrite a b s).buf = s.buf.write a.val b := rfl
@[simp] theorem memWrite_acc (a : Offset) (b : Byte) (s : State) : (memWrite a b s).acc = s.acc := rfl
@[simp] theorem memWrite_err (a : Offset) (b : Byte) (s : State) : (memWrite a b s).err = s.err := rfl
@[simp] theorem memWrite_div (a : Offset) (b : Byte) (s : State) : (memWrite a b s).div = s.div := rfl
@[simp] theorem memWrite_mValid (a : Offset) (b : Byte) (s : State) : (memWrite a b s).mValid = s.mValid := rfl
@[simp] theorem memWrite_mCur (a : Offset) (b : Byte) (s : State) : (memWrite a b s).mCur = s.mCur := rfl
@[simp] theorem memWrite_mVolt (a : Offset) (b : Byte) (s : State) : (memWrite a b s).mVolt = s.mVolt := rfl
@[simp] theorem memWrite_mChk (a : Offset) (b : Byte) (s : State) : (memWrite a b s).mChk = s.mChk := rfl
@[simp] theorem memWrite_bufWritten (a : Offset) (b : Byte) (s : State) : (memWrite a b s).bufWritten = s.bufWritten.set a.val true a.isLt := rfl
@[simp] theorem memWrite_rstSeen (a : Offset) (b : Byte) (s : State) : (memWrite a b s).rstSeen = s.rstSeen := rfl
@[simp] theorem memWrite_cfgDivider (a : Offset) (b : Byte) (s : State) : (memWrite a b s).cfgDivider = s.cfgDivider := rfl
@[simp] theorem memWrite_input (a : Offset) (b : Byte) (s : State) : (memWrite a b s).input = s.input := rfl
@[simp] theorem memWrite_output (a : Offset) (b : Byte) (s : State) : (memWrite a b s).output = s.output := rfl
@[simp] theorem memWrite_sent (a : Offset) (b : Byte) (s : State) : (memWrite a b s).sent = s.sent := rfl

/-! ### `storeAndAdvance` -/

@[simp] theorem storeAndAdvance_mode (d : Byte) (s : State) : (storeAndAdvance d s).mode = s.mode := rfl
@[simp] theorem storeAndAdvance_cnt (d : Byte) (s : State) : (storeAndAdvance d s).cnt = s.cnt + 1 := rfl
@[simp] theorem storeAndAdvance_buf (d : Byte) (s : State) : (storeAndAdvance d s).buf = s.buf.write s.cnt.val d := rfl
@[simp] theorem storeAndAdvance_acc (d : Byte) (s : State) : (storeAndAdvance d s).acc = s.acc := rfl
@[simp] theorem storeAndAdvance_err (d : Byte) (s : State) : (storeAndAdvance d s).err = s.err := rfl
@[simp] theorem storeAndAdvance_div (d : Byte) (s : State) : (storeAndAdvance d s).div = s.div := rfl
@[simp] theorem storeAndAdvance_mValid (d : Byte) (s : State) : (storeAndAdvance d s).mValid = s.mValid := rfl
@[simp] theorem storeAndAdvance_mCur (d : Byte) (s : State) : (storeAndAdvance d s).mCur = s.mCur := rfl
@[simp] theorem storeAndAdvance_mVolt (d : Byte) (s : State) : (storeAndAdvance d s).mVolt = s.mVolt := rfl
@[simp] theorem storeAndAdvance_mChk (d : Byte) (s : State) : (storeAndAdvance d s).mChk = s.mChk := rfl
@[simp] theorem storeAndAdvance_bufWritten (d : Byte) (s : State) : (storeAndAdvance d s).bufWritten = s.bufWritten.set s.cnt.val true s.cnt.isLt := rfl
@[simp] theorem storeAndAdvance_rstSeen (d : Byte) (s : State) : (storeAndAdvance d s).rstSeen = s.rstSeen := rfl
@[simp] theorem storeAndAdvance_cfgDivider (d : Byte) (s : State) : (storeAndAdvance d s).cfgDivider = s.cfgDivider := rfl
@[simp] theorem storeAndAdvance_input (d : Byte) (s : State) : (storeAndAdvance d s).input = s.input := rfl
@[simp] theorem storeAndAdvance_output (d : Byte) (s : State) : (storeAndAdvance d s).output = s.output := rfl
@[simp] theorem storeAndAdvance_sent (d : Byte) (s : State) : (storeAndAdvance d s).sent = s.sent := rfl

/-! ### `openSession` -/

@[simp] theorem openSession_mode (n : U16) (s : State) : (openSession n s).mode = .running := rfl
@[simp] theorem openSession_cnt (n : U16) (s : State) : (openSession n s).cnt = 0 := rfl
@[simp] theorem openSession_buf (n : U16) (s : State) : (openSession n s).buf = s.buf := rfl
@[simp] theorem openSession_acc (n : U16) (s : State) : (openSession n s).acc = 0x00 := rfl
@[simp] theorem openSession_err (n : U16) (s : State) : (openSession n s).err = .noError := rfl
@[simp] theorem openSession_div (n : U16) (s : State) : (openSession n s).div = n := rfl
@[simp] theorem openSession_mValid (n : U16) (s : State) : (openSession n s).mValid = false := rfl
@[simp] theorem openSession_mCur (n : U16) (s : State) : (openSession n s).mCur = 0 := rfl
@[simp] theorem openSession_mVolt (n : U16) (s : State) : (openSession n s).mVolt = 0 := rfl
@[simp] theorem openSession_mChk (n : U16) (s : State) : (openSession n s).mChk = 0x00 := rfl
@[simp] theorem openSession_bufWritten (n : U16) (s : State) : (openSession n s).bufWritten = Vector.replicate 19 false := rfl
@[simp] theorem openSession_rstSeen (n : U16) (s : State) : (openSession n s).rstSeen = true := rfl
@[simp] theorem openSession_cfgDivider (n : U16) (s : State) : (openSession n s).cfgDivider = s.cfgDivider := rfl
@[simp] theorem openSession_input (n : U16) (s : State) : (openSession n s).input = s.input := rfl
@[simp] theorem openSession_output (n : U16) (s : State) : (openSession n s).output = s.output := rfl
@[simp] theorem openSession_sent (n : U16) (s : State) : (openSession n s).sent = s.sent := rfl

/-! ### `raise` -/

@[simp] theorem raise_mode (e : Exc) (s : State) : (raise e s).mode = if e.cause.isFatal then .terminated else s.mode := rfl
@[simp] theorem raise_cnt (e : Exc) (s : State) : (raise e s).cnt = s.cnt := rfl
@[simp] theorem raise_buf (e : Exc) (s : State) : (raise e s).buf = s.buf := rfl
@[simp] theorem raise_acc (e : Exc) (s : State) : (raise e s).acc = s.acc := rfl
@[simp] theorem raise_err (e : Exc) (s : State) : (raise e s).err = e.cause := rfl
@[simp] theorem raise_div (e : Exc) (s : State) : (raise e s).div = s.div := rfl
@[simp] theorem raise_mValid (e : Exc) (s : State) : (raise e s).mValid = s.mValid := rfl
@[simp] theorem raise_mCur (e : Exc) (s : State) : (raise e s).mCur = s.mCur := rfl
@[simp] theorem raise_mVolt (e : Exc) (s : State) : (raise e s).mVolt = s.mVolt := rfl
@[simp] theorem raise_mChk (e : Exc) (s : State) : (raise e s).mChk = s.mChk := rfl
@[simp] theorem raise_bufWritten (e : Exc) (s : State) : (raise e s).bufWritten = s.bufWritten := rfl
@[simp] theorem raise_rstSeen (e : Exc) (s : State) : (raise e s).rstSeen = s.rstSeen := rfl
@[simp] theorem raise_cfgDivider (e : Exc) (s : State) : (raise e s).cfgDivider = s.cfgDivider := rfl
@[simp] theorem raise_input (e : Exc) (s : State) : (raise e s).input = s.input := rfl
@[simp] theorem raise_output (e : Exc) (s : State) : (raise e s).output = s.output ++ [e.report] := rfl
@[simp] theorem raise_sent (e : Exc) (s : State) : (raise e s).sent = s.sent := rfl

end Sys2Proof.Machine
end

