-- ==== Sys2Proof/Laws/Memory.lean ====
section
/-! SUPPORT. The frame buffer as memory: what a read gives after a write, and that every operation keeps the canonical
form. -/

namespace Sys2Proof.Machine

/-- A written byte reads back. -/
@[simp] theorem Memory.read_write_same (m : Memory) (a : Nat) (b : Byte) :
    (m.write a b).read a = some b := by
  induction m with
  | nil => simp [Memory.write, Memory.read]
  | cons x m ih =>
    obtain ⟨k, c⟩ := x
    simp only [Memory.write]
    split
    · simp [Memory.read]
    · split
      · simp [Memory.read]
      · simp only [Memory.read, if_neg (show ¬k = a by omega), ih]

/-- A write leaves every other offset alone. -/
theorem Memory.read_write_other (m : Memory) (a x : Nat) (b : Byte) (h : x ≠ a) :
    (m.write a b).read x = m.read x := by
  induction m with
  | nil => simp [Memory.write, Memory.read, Ne.symm h]
  | cons y m ih =>
    obtain ⟨k, c⟩ := y
    simp only [Memory.write]
    split
    · simp [Memory.read, Ne.symm h]
    · split
      · rename_i hk
        subst hk
        simp [Memory.read, Ne.symm h]
      · simp only [Memory.read, ih]

theorem Memory.read_write (m : Memory) (a x : Nat) (b : Byte) :
    (m.write a b).read x = if x = a then some b else m.read x := by
  split
  · subst x; exact Memory.read_write_same m a b
  · exact Memory.read_write_other m a x b ‹_›

/-- A write below 19 keeps the cells from `lo` on in canonical form. -/
theorem Memory.wfFrom_write (m : Memory) (lo a : Nat) (b : Byte) (hlo : lo ≤ a) (ha : a < 19)
    (h : Memory.wfFrom lo m = true) : Memory.wfFrom lo (m.write a b) = true := by
  induction m generalizing lo with
  | nil => simp [Memory.write, Memory.wfFrom, hlo, ha]
  | cons y m ih =>
    obtain ⟨k, c⟩ := y
    simp only [Memory.wfFrom, Bool.and_eq_true, decide_eq_true_eq] at h
    obtain ⟨⟨hk, hk19⟩, hm⟩ := h
    simp only [Memory.write]
    split
    · simp [Memory.wfFrom, hlo, ha, hk19, hm]; omega
    · split
      · subst a; simp [Memory.wfFrom, hlo, ha, hm]
      · simp [Memory.wfFrom, hk, hk19]
        exact ih (k + 1) (by omega) hm

/-- Every write of the model keeps the canonical form. -/
theorem Memory.write_wf (m : Memory) (a : Offset) (b : Byte) (h : m.wf = true) :
    (m.write a.val b).wf = true :=
  Memory.wfFrom_write m 0 a.val b (Nat.zero_le _) a.isLt h

theorem memWrite_wf (a : Offset) (b : Byte) (s : State) (h : s.buf.wf = true) :
    (memWrite a b s).buf.wf = true := Memory.write_wf s.buf a b h

theorem storeAndAdvance_wf (d : Byte) (s : State) (h : s.buf.wf = true) :
    (storeAndAdvance d s).buf.wf = true := Memory.write_wf s.buf s.cnt d h

/-- The memory after reset is in canonical form. -/
theorem reset_buf_wf : State.reset.buf.wf = true := rfl

/-! ### Reads through the state -/

/-- A read depends on the buffer alone, and on which bytes have been written since the last RST. -/
theorem readByte_congr (a : Nat) {s t : State} (h : t.buf = s.buf) (hw : t.bufWritten = s.bufWritten) :
    readByte a t = readByte a s := by
  simp only [readByte, byteAt, h, hw]

/-- So does the value of a byte. -/
theorem byteAt_congr (a : Nat) {s t : State} (h : t.buf = s.buf) (hw : t.bufWritten = s.bufWritten) :
    byteAt a t = byteAt a s := by
  simp only [byteAt, h, hw]

@[simp] theorem byteAt_emit (o : Output) (s : State) (a : Nat) : byteAt a (emit o s) = byteAt a s := rfl
@[simp] theorem byteAt_raise (e : Exc) (s : State) (a : Nat) : byteAt a (raise e s) = byteAt a s := rfl
@[simp] theorem readByte_emit (o : Output) (s : State) (a : Nat) :
    readByte a (emit o s) = readByte a s := rfl
@[simp] theorem readByte_raise (e : Exc) (s : State) (a : Nat) :
    readByte a (raise e s) = readByte a s := rfl

/-- A written byte has its value, and a write leaves the values of the other offsets alone. -/
theorem byteAt_memWrite (a : Offset) (b : Byte) (s : State) (x : Nat) :
    byteAt x (memWrite a b s) = if x = a.val then some b else byteAt x s := by
  split
  · subst x
    simp [byteAt]
  · rename_i h
    simp [byteAt, Memory.read_write_other _ _ _ _ h, Vector.getElem?_set_ne _ (Ne.symm h)]

@[simp] theorem byteAt_storeAndAdvance (d : Byte) (s : State) (x : Nat) :
    byteAt x (storeAndAdvance d s) = if x = s.cnt.val then some d else byteAt x s :=
  byteAt_memWrite s.cnt d s x

/-- After an RST no byte has a value (10_state R21). -/
@[simp] theorem byteAt_openSession (n : U16) (s : State) (x : Nat) :
    byteAt x (openSession n s) = none := by
  simp [byteAt, Vector.getElem?_replicate]

/-- A byte with a value lies at an offset that exists, and its cell holds the value. -/
theorem byteAt_eq_some (a : Nat) (s : State) (b : Byte) :
    byteAt a s = some b ↔ s.bufWritten[a]? = some true ∧ s.buf.read a = some b := by
  unfold byteAt; split <;> simp_all

/-- A read answers a byte exactly when the offset exists and the byte has a value. -/
theorem readByte_ok_iff (a : Nat) (s : State) (b : Byte) :
    readByte a s = .ok b ↔ a < 19 ∧ byteAt a s = some b := by
  unfold readByte
  split
  · simp; omega
  · split
    · rename_i c hc; simp [hc]; omega
    · rename_i hc; simp [hc]

theorem readByte_storeAndAdvance_same (d : Byte) (s : State) :
    readByte s.cnt.val (storeAndAdvance d s) = .ok d :=
  (readByte_ok_iff _ _ _).mpr ⟨s.cnt.isLt, by simp⟩

theorem readByte_storeAndAdvance_other (d : Byte) (s : State) (a : Nat) (h : a ≠ s.cnt.val) :
    readByte a (storeAndAdvance d s) = readByte a s := by
  simp only [readByte, byteAt_storeAndAdvance, if_neg h]

/-- After an RST every read faults until the byte is written again (10_state R21, 93 U2). -/
theorem readByte_openSession (n : U16) (s : State) (a : Nat) (h : a < 19) :
    readByte a (openSession n s) = .error (.unwrittenByte a) := by
  simp only [readByte, byteAt_openSession, if_neg (show ¬19 ≤ a by omega)]

/-- The two-byte read, high byte first (30_encoding R50). -/
theorem memRead_two (cfg : Cfg) (a : Nat) (s : State) (b1 b2 : Byte) (h1 : readByte a s = .ok b1)
    (h2 : readByte (a + 1) s = .ok b2) :
    memRead cfg a 2 s = .ok (b1.toNat * cfg.fieldRadix + b2.toNat) := by
  simp only [memRead, Nat.add_zero, h1, h2, Nat.zero_mul, Nat.zero_add]

end Sys2Proof.Machine
end

