-- ==== Sys2Proof/Laws/Ops.lean ====
section
/-! SUPPORT. For each shared operation one lemma that says once everything it can do. -/

namespace Sys2Proof.Machine

/-! ### Outcomes -/

@[simp] theorem andThen_next (s : State) (k : State → Result) : andThen (.next s) k = k s := rfl
@[simp] theorem andThen_fault (f : Fault) (k : State → Result) : andThen (.fault f) k = .fault f := rfl
@[simp] theorem andThen_refused (q : Refusal) (k : State → Result) :
    andThen (.refused q) k = .refused q := rfl

/-- A sequence completes exactly when its first part does and the rest does from there. -/
theorem andThen_eq_next (r : Result) (k : State → Result) (t : State) :
    andThen r k = .next t ↔ ∃ u, r = .next u ∧ k u = .next t := by
  cases r <;> simp [andThen]

theorem andThen_assoc (r : Result) (k l : State → Result) :
    andThen (andThen r k) l = andThen r fun s => andThen (k s) l := by
  cases r <;> rfl

/-- A continued read completes exactly when the read gives a value with which the rest completes. -/
theorem withRead_eq_next {α : Type} (v : Except Fault α) (k : α → Result) (t : State) :
    withRead v k = .next t ↔ ∃ x, v = .ok x ∧ k x = .next t := by
  cases v <;> simp [withRead]

@[simp] theorem withRead_ok {α : Type} (x : α) (k : α → Result) : withRead (.ok x) k = k x := rfl
@[simp] theorem withRead_error {α : Type} (f : Fault) (k : α → Result) :
    withRead (.error f) k = .fault f := rfl

/-! ### Gates of an event -/

theorem afterReset_eq_next (s : State) (r : Result) (t : State) :
    afterReset s r = .next t ↔ s.rstSeen = true ∧ r = .next t := by
  unfold afterReset; split <;> simp_all

theorem afterReset_seen (s : State) (r : Result) (h : s.rstSeen = true) : afterReset s r = r := by
  simp [afterReset, h]

theorem afterReset_unseen (s : State) (r : Result) (h : s.rstSeen = false) :
    afterReset s r = .refused .notReset := by
  simp [afterReset, h]

theorem whenRunning_running (s : State) (r : Result) (h : s.mode = .running) :
    whenRunning s r = r := by
  simp [whenRunning, h]

theorem whenRunning_terminated (s : State) (r : Result) (h : s.mode = .terminated) :
    whenRunning s r = .next (emit .none s) := by
  simp [whenRunning, h]

/-- An event completes in `Running` through its body, and in `Terminated` as a dropped event. -/
theorem whenRunning_eq_next (s : State) (r : Result) (t : State) :
    whenRunning s r = .next t ↔
      (s.mode = .running ∧ r = .next t) ∨ (s.mode = .terminated ∧ emit .none s = t) := by
  unfold whenRunning; split <;> simp_all

/-- A positional form completes in `Running` at its own position through its body, and in `Terminated` as a dropped
byte; nowhere else. -/
theorem onForm_eq_next (cfg : Cfg) (f : Form) (s : State) (body : Result) (t : State) :
    onForm cfg f s body = .next t ↔
      s.rstSeen = true ∧
        ((s.mode = .running ∧ formAt cfg s.cnt = f ∧ body = .next t) ∨
         (s.mode = .terminated ∧ emit .none s = t)) := by
  unfold onForm
  rw [afterReset_eq_next, whenRunning_eq_next]
  by_cases h : formAt cfg s.cnt = f <;> simp [h]

theorem onForm_live (cfg : Cfg) (f : Form) (s : State) (body : Result) (h : Live s)
    (hf : formAt cfg s.cnt = f) : onForm cfg f s body = body := by
  rw [onForm, afterReset_seen _ _ h.1, whenRunning_running _ _ h.2, if_pos hf]

theorem onForm_terminated (cfg : Cfg) (f : Form) (s : State) (body : Result) (h : s.rstSeen = true)
    (hm : s.mode = .terminated) : onForm cfg f s body = .next (emit .none s) := by
  rw [onForm, afterReset_seen _ _ h, whenRunning_terminated _ _ hm]

theorem onForm_elsewhere (cfg : Cfg) (f : Form) (s : State) (body : Result) (h : Live s)
    (hf : formAt cfg s.cnt ≠ f) : onForm cfg f s body = .refused .formNotSelected := by
  rw [onForm, afterReset_seen _ _ h.1, whenRunning_running _ _ h.2, if_neg hf]

theorem formAt_start (c : Offset) : formAt Config.cfg c = .start ↔ c.val = 0 := by
  revert c; decide

theorem formAt_pay (c : Offset) : formAt Config.cfg c = .pay ↔ 1 ≤ c.val ∧ c.val ≤ 16 := by
  revert c; decide

theorem formAt_chk (c : Offset) : formAt Config.cfg c = .chk ↔ c.val = 17 := by
  revert c; decide

theorem formAt_stop (c : Offset) : formAt Config.cfg c = .stop ↔ c.val = 18 := by
  revert c; decide

/-- `CNT + 1` counts modulo 19. -/
theorem cnt_succ_val (c : Offset) : (c + 1).val = (c.val + 1) % 19 := by
  simp [Fin.val_add]

/-! ### Taking an exception -/

theorem raise_fatal_mode (e : Exc) (s : State) (h : e.cause.isFatal = true) :
    (raise e s).mode = .terminated := by simp [h]

theorem raise_recoverable_mode (e : Exc) (s : State) (h : e.cause.isFatal = false) :
    (raise e s).mode = s.mode := by simp [h]

/-! ### The fetch -/

theorem fetch_nil (s : State) (h : s.input = []) : fetch s = (.ev 0x000, s) := by
  simp [fetch, h]

theorem fetch_cons (s : State) (x : Item) (xs : List Item) (h : s.input = x :: xs) :
    fetch s = (x.wire, { s with input := xs, cfgDivider := x.cfgDivider }) := by
  simp [fetch, h]

@[simp] theorem underCfg_cfg (r : Result) : underCfg Config.cfg r = r := rfl

/-- A supported configuration lets everything through. -/
theorem underCfg_supported (cfg : Cfg) (r : Result) (h : cfg.supported = true) :
    underCfg cfg r = r := by
  simp_all [underCfg, Cfg.supported]

/-- An outcome is a next state under a configuration exactly when the configuration is supported. -/
theorem underCfg_eq_next (cfg : Cfg) (r : Result) (t : State) :
    underCfg cfg r = .next t ↔ cfg.supported = true ∧ r = .next t := by
  unfold underCfg Cfg.supported
  split
  · split <;> simp_all
  · simp_all

/-- One cycle under a supported configuration: what is fetched is decoded and run, or refused. -/
theorem cycle_supported (cfg : Cfg) (run : Instr → State → Result) (s : State)
    (h : cfg.supported = true) :
    cycle cfg run s = match decode cfg (fetch s).1 with
      | .ok i => run i (fetch s).2
      | .error e => .refused (.undecodable e) :=
  underCfg_supported cfg _ h

/-- A step completes exactly when the fetched bits decode to an operation that completes. -/
theorem step_eq_next (s t : State) :
    step s = .next t ↔
      ∃ i, decode Config.cfg (fetch s).1 = .ok i ∧ exec i (fetch s).2 = .next t := by
  rw [step, cycle_supported _ _ _ cfg_supported]
  split <;> simp_all

/-! ### The checksum -/

@[simp] theorem checksum_nil : checksum [] = 0x00 := rfl
@[simp] theorem checksum_cons (b : Byte) (bs : List Byte) : checksum (b :: bs) = b ^^^ checksum bs :=
  rfl

/-! ### The verdict (42_frame_validator R79) -/

/-- Delivery completes exactly when the five bytes it reads have been written; it latches, emits, and clears `ERR`. -/
theorem deliver_eq_next (cfg : Cfg) (s t : State) :
    deliver cfg s = .next t ↔ ∃ rawCur rawVolt chk,
      curOperand cfg s = .ok rawCur ∧ voltOperand cfg s = .ok rawVolt ∧ chkOperand cfg s = .ok chk ∧
      t = emit (.meas (narrow cfg (curNum cfg rawCur)) (narrow cfg (voltNum cfg rawVolt)) chk s.div)
        { s with
          mCur := narrow cfg (curNum cfg rawCur), mVolt := narrow cfg (voltNum cfg rawVolt), mChk := chk
          mValid := true, err := .noError } := by
  simp only [deliver, withRead_eq_next, Host.Outcome.next.injEq]
  constructor
  · rintro ⟨a, ha, b, hb, c, hc, rfl⟩; exact ⟨a, b, c, ha, hb, hc, rfl⟩
  · rintro ⟨a, b, c, ha, hb, hc, rfl⟩; exact ⟨a, ha, b, hb, c, hc, rfl⟩

/-- The verdict completes in one of four ways, by the first check that fails. -/
theorem verdict_eq_next (cfg : Cfg) (s t : State) :
    verdict cfg s = .next t ↔ ∃ start, startOperand s = .ok start ∧
      ((startOk cfg start = false ∧ t = raise (.invalidStartByte start) s) ∨
       (startOk cfg start = true ∧ ∃ stop, stopOperand cfg s = .ok stop ∧
         ((stopOk cfg stop = false ∧ t = raise (.invalidStopByte stop) s) ∨
          (stopOk cfg stop = true ∧ ∃ chk, chkOperand cfg s = .ok chk ∧
            ((chkOk s.acc chk = false ∧ t = raise (.invalidChecksum s.acc chk) s) ∨
             (chkOk s.acc chk = true ∧ deliver cfg s = .next t)))))) := by
  simp only [verdict, withRead_eq_next]
  refine exists_congr fun start => and_congr_right fun _ => ?_
  by_cases h0 : startOk cfg start = true
  · simp only [h0, if_true, withRead_eq_next, Bool.true_eq_false, false_and, false_or, true_and]
    refine exists_congr fun stop => and_congr_right fun _ => ?_
    by_cases h1 : stopOk cfg stop = true
    · simp only [h1, if_true, withRead_eq_next, Bool.true_eq_false, false_and, false_or, true_and]
      refine exists_congr fun chk => and_congr_right fun _ => ?_
      by_cases h2 : chkOk s.acc chk = true <;> simp [h2, eq_comm (a := t)]
    · simp [h1, eq_comm (a := t)]
  · simp [h0, eq_comm (a := t)]

/-! ### The meanings: when each completes, and with what -/

theorem execIdle_eq_next (s t : State) :
    execIdle s = .next t ↔ s.rstSeen = true ∧ emit .none s = t := by
  simp [execIdle, afterReset_eq_next]

theorem execRst_eq_next (s t : State) :
    execRst s = .next t ↔ s.cfgDivider ≠ 0 ∧ emit .none (openSession s.cfgDivider s) = t := by
  unfold execRst; split <;> simp_all

theorem execRxf_eq_next (s t : State) :
    execRxf s = .next t ↔ s.rstSeen = true ∧
      ((s.mode = .running ∧ raise (.transportError (receivedCount s)) s = t) ∨
       (s.mode = .terminated ∧ emit .none s = t)) := by
  simp [execRxf, afterReset_eq_next, whenRunning_eq_next]

/-- RXB is the form that `CNT` selects. -/
theorem execRxb_start (d : Byte) (s : State) (h : s.cnt.val = 0) : execRxb d s = execRxbStart d s := by
  simp [execRxb, execRxbUnder, execRxbStart, (formAt_start s.cnt).mpr h]

theorem execRxb_pay (d : Byte) (s : State) (h : 1 ≤ s.cnt.val) (h' : s.cnt.val ≤ 16) :
    execRxb d s = execRxbPay d s := by
  simp [execRxb, execRxbUnder, execRxbPay, (formAt_pay s.cnt).mpr ⟨h, h'⟩]

theorem execRxb_chk (d : Byte) (s : State) (h : s.cnt.val = 17) : execRxb d s = execRxbChk d s := by
  simp [execRxb, execRxbUnder, execRxbChk, (formAt_chk s.cnt).mpr h]

theorem execRxb_stop (d : Byte) (s : State) (h : s.cnt.val = 18) : execRxb d s = execRxbStop d s := by
  simp [execRxb, execRxbUnder, execRxbStop, (formAt_stop s.cnt).mpr h]

theorem execRxb_terminated (d : Byte) (s : State) (h : s.rstSeen = true)
    (hm : s.mode = .terminated) : execRxb d s = .next (emit .none s) := by
  unfold execRxb execRxbUnder
  split <;> exact onForm_terminated _ _ _ _ h hm

/-- Everything RXB can do when it completes: drop the byte, or store it under one of the four forms. -/
theorem execRxb_eq_next (d : Byte) (s t : State) :
    execRxb d s = .next t ↔ s.rstSeen = true ∧
      ((s.mode = .terminated ∧ t = emit .none s) ∨
       (s.mode = .running ∧
        ((s.cnt.val = 0 ∧ t = emit .none { storeAndAdvance d s with acc := 0x00 }) ∨
         (1 ≤ s.cnt.val ∧ s.cnt.val ≤ 16 ∧
            t = emit .none { storeAndAdvance d s with acc := s.acc ^^^ d }) ∨
         (s.cnt.val = 17 ∧ t = emit .none (storeAndAdvance d s)) ∨
         (s.cnt.val = 18 ∧ verdict Config.cfg (storeAndAdvance d s) = .next t)))) := by
  have key : ∀ f, formAt Config.cfg s.cnt = f → (execRxb d s = .next t ↔ s.rstSeen = true ∧
      ((s.mode = .terminated ∧ t = emit .none s) ∨ (s.mode = .running ∧
        match f with
        | .start => t = emit .none { storeAndAdvance d s with acc := 0x00 }
        | .pay => t = emit .none { storeAndAdvance d s with acc := s.acc ^^^ d }
        | .chk => t = emit .none (storeAndAdvance d s)
        | .stop => verdict Config.cfg (storeAndAdvance d s) = .next t))) := by
    intro f hf
    cases f <;>
      simp [execRxb, execRxbUnder, hf, execRxbStartUnder, execRxbPayUnder, execRxbChkUnder,
        execRxbStopUnder, onForm_eq_next,
        eq_comm (a := t), or_comm]
  rw [key _ rfl]
  have := s.cnt.isLt
  rcases (show s.cnt.val = 0 ∨ (1 ≤ s.cnt.val ∧ s.cnt.val ≤ 16) ∨ s.cnt.val = 17 ∨ s.cnt.val = 18
    by omega) with h | ⟨h, h'⟩ | h | h
  · simp [(formAt_start s.cnt).mpr h, h]
  · simp [(formAt_pay s.cnt).mpr ⟨h, h'⟩, h, h', show s.cnt.val ≠ 0 by omega,
      show s.cnt.val ≠ 17 by omega, show s.cnt.val ≠ 18 by omega]
  · simp [(formAt_chk s.cnt).mpr h, h]
  · simp [(formAt_stop s.cnt).mpr h, h]

/-- A frame is its bytes, received one after another. -/
@[simp] theorem receiveAll_nil (s : State) : receiveAll Config.cfg [] s = .next s := rfl
theorem receiveAll_cons (b : Byte) (bs : List Byte) (s : State) :
    receiveAll Config.cfg (b :: bs) s = andThen (execRxb b s) (receiveAll Config.cfg bs) := rfl

/-- A relation between a state and the next that holds of no byte and of each byte holds of a list of bytes. -/
theorem receiveAll_induct (R : State → State → Prop) (refl : ∀ s, R s s)
    (tail : ∀ d s u t, execRxb d s = .next u → R u t → R s t) :
    ∀ (bs : List Byte) (s t : State), receiveAll Config.cfg bs s = .next t → R s t := by
  intro bs
  induction bs with
  | nil => intro s t h; cases h; exact refl s
  | cons b bs ih =>
    intro s t h
    obtain ⟨u, hu, ht⟩ := (andThen_eq_next _ _ _).mp h
    exact tail b s u t hu (ih u t ht)

end Sys2Proof.Machine
end

