-- ==== Sys2Proof/Laws/Events.lean ====
section
/-! SUPPORT. What an event can do when it completes, said once for RXB and its four forms and for the verdict on the
state before the last byte; and the two lifts from one byte to the bytes of a frame. -/

namespace Sys2Proof.Machine

/-- An event is RST, IDLE, RXF or carries a byte. -/
theorem isEvent_cases {i : Instr} (h : isEvent i = true) :
    i = .rst ∨ i = .idle ∨ i = .rxf ∨ ∃ d, byteOf i = some d := by
  cases i <;> simp_all [isEvent, byteOf]

/-- A positional form that completes does what RXB does with the same byte. -/
theorem byteEvent_eq_next {i : Instr} {d : Byte} (hd : byteOf i = some d) {s t : State}
    (h : exec i s = .next t) : execRxb d s = .next t := by
  cases i <;> simp [byteOf] at hd <;> subst hd
  case rxb => exact h
  all_goals simp only [exec, execRxbStart, execRxbPay, execRxbChk, execRxbStop, execRxbStartUnder,
    execRxbPayUnder, execRxbChkUnder, execRxbStopUnder] at h
  all_goals
    rcases (onForm_eq_next _ _ _ _ _).mp h with ⟨hr, ⟨hm, hf, hb⟩ | ⟨hm, rfl⟩⟩
    · simp only [execRxb, execRxbUnder, hf, execRxbStartUnder, execRxbPayUnder, execRxbChkUnder,
        execRxbStopUnder]; exact h
    · exact execRxb_terminated _ _ hr hm

/-- After the last byte is stored, offset 18 holds it and every other offset reads as before. -/
theorem readByte_atStop_last {s : State} {d : Byte} (hc : s.cnt.val = 18) :
    readByte 18 (storeAndAdvance d s) = .ok d := by
  have := readByte_storeAndAdvance_same d s
  rwa [hc] at this

theorem readByte_atStop {s : State} {d : Byte} {a : Nat} (hc : s.cnt.val = 18) (ha : a ≠ 18) :
    readByte a (storeAndAdvance d s) = readByte a s :=
  readByte_storeAndAdvance_other d s a (by omega)

/-- The verdict in terms of the bytes that were in the buffer before the last byte `d` (42_frame_validator R79). -/
theorem verdict_atStop {s t : State} {d : Byte} (hc : s.cnt.val = 18)
    (h : verdict Config.cfg (storeAndAdvance d s) = .next t) :
    ∃ b, readByte 0 s = .ok b ∧
      ((b ≠ 0xFA ∧ t = raise (.invalidStartByte b) (storeAndAdvance d s)) ∨
       (b = 0xFA ∧ d ≠ 0xF8 ∧ t = raise (.invalidStopByte d) (storeAndAdvance d s)) ∨
       (b = 0xFA ∧ d = 0xF8 ∧ ∃ k, readByte 17 s = .ok k ∧
         ((s.acc ≠ k ∧ t = raise (.invalidChecksum s.acc k) (storeAndAdvance d s)) ∨
          (s.acc = k ∧ ∃ rawCur rawVolt,
            memRead Config.cfg 2 2 (storeAndAdvance d s) = .ok rawCur ∧
            memRead Config.cfg 4 2 (storeAndAdvance d s) = .ok rawVolt ∧
            t = emit (.meas (narrow Config.cfg (curNum Config.cfg rawCur))
                (narrow Config.cfg (voltNum Config.cfg rawVolt)) k s.div)
              { storeAndAdvance d s with
                mCur := narrow Config.cfg (curNum Config.cfg rawCur)
                mVolt := narrow Config.cfg (voltNum Config.cfg rawVolt), mChk := k
                mValid := true, err := .noError })))) := by
  obtain ⟨b, hb, h⟩ := (verdict_eq_next _ _ _).mp h
  rw [show startOperand (storeAndAdvance d s) = readByte 0 s from readByte_atStop hc (by decide)] at hb
  have e17 : chkOperand Config.cfg (storeAndAdvance d s) = readByte 17 s := readByte_atStop hc (by decide)
  refine ⟨b, hb, ?_⟩
  rcases h with ⟨h0, rfl⟩ | ⟨h0, stop, hs, h'⟩
  · exact .inl ⟨by simpa [startOk] using h0, rfl⟩
  have hb0 : b = 0xFA := by simpa [startOk] using h0
  rw [show stopOperand Config.cfg (storeAndAdvance d s) = .ok d from readByte_atStop_last hc] at hs
  cases hs
  rcases h' with ⟨h1, rfl⟩ | ⟨h1, k, hk, h'⟩
  · exact .inr (.inl ⟨hb0, by simpa [stopOk] using h1, rfl⟩)
  rw [e17] at hk
  refine .inr (.inr ⟨hb0, by simpa [stopOk] using h1, k, hk, ?_⟩)
  rcases h' with ⟨h2, rfl⟩ | ⟨h2, hd⟩
  · exact .inl ⟨by simpa [chkOk] using h2, rfl⟩
  obtain ⟨rc, rv, k', hc', hv', h3, rfl⟩ := (deliver_eq_next _ _ _).mp hd
  rw [e17, hk] at h3
  cases h3
  exact .inr ⟨by simpa [chkOk] using h2, rc, rv, hc', hv', rfl⟩

/-- A two-byte field is below 65536. -/
theorem memRead_two_lt {a : Nat} {s : State} {r : Nat} (h : memRead Config.cfg a 2 s = .ok r) :
    r < 65536 := by
  simp only [memRead, Nat.add_zero] at h
  cases h1 : readByte a s with
  | error e => simp [h1] at h
  | ok b1 =>
    cases h2 : readByte (a + 1) s with
    | error e => simp [h1, h2] at h
    | ok b2 =>
      have := b1.isLt
      have := b2.isLt
      simp [h1, h2] at h
      omega

/-- A numerator keeps its low 32 bits at the latches, whatever `INT_WIDTH` from 32 on (43_decoder R92). -/
theorem narrow_eq (cfg : Cfg) (x : Int) (h : 32 ≤ cfg.intWidth) : narrow cfg x = BitVec.ofInt 32 x := by
  refine BitVec.eq_of_toInt_eq ?_
  rw [narrow, BitVec.toInt_signExtend, BitVec.toInt_ofInt, BitVec.toInt_ofInt (n := 32),
    Nat.min_eq_left h]
  exact Int.bmod_bmod_of_dvd (Nat.pow_dvd_pow 2 h)

/-- Under the block's own configuration a numerator in the range of 43_decoder R98 is itself. -/
theorem narrow_toInt (x : Int) (h : -15 ≤ x) (h' : x ≤ 61455) : (narrow Config.cfg x).toInt = x := by
  rw [narrow_eq _ _ (by decide)]
  refine (BitVec.toInt_ofInt (n := 32) x).trans ?_
  rw [Int.bmod]
  omega

/-- A reflexive and transitive relation that every received byte keeps holds across the bytes of a frame. -/
theorem receiveAll_lift (R : State → State → Prop) (refl : ∀ s, R s s)
    (trans : ∀ s t u, R s t → R t u → R s u) (byte : ∀ d s t, execRxb d s = .next t → R s t)
    (bs : List Byte) (s t : State) (h : receiveAll Config.cfg bs s = .next t) : R s t :=
  receiveAll_induct R refl (fun d s u t h1 h2 => trans s u t (byte d s u h1) h2) bs s t h

end Sys2Proof.Machine
end

