-- ==== Sys2Proof/Laws/PerInstr.lean ====
section
/-! SUPPORT. Statements for all operations, one lemma per constructor of `Instr`. Family EncodeMatchesRow: the words of a
well-formed operation have the fixed bits of its row in spec/opcode_table.json, as mask and match or, for FRAME, as the marker bytes at its two ends. -/

namespace Sys2Proof

/-- `w` is an event word with the fixed bits `m` under the mask `k`. -/
def Laws.EncodeMatchesRow.eventFits (x : Wire) (k m : EventWord) : Prop :=
  ∃ w, x = .ev w ∧ w &&& k = m

/-- The row of each operation. -/
def Laws.EncodeMatchesRow.Statement : Instr → Prop
  | .rst => eventFits (encode Config.cfg .rst) 0x400 0x400
  | .rxf => eventFits (encode Config.cfg .rxf) 0x600 0x200
  | .rxb d => eventFits (encode Config.cfg (.rxb d)) 0x700 0x100
  | .idle => eventFits (encode Config.cfg .idle) 0x700 0x000
  | .rxbStart d => eventFits (encode Config.cfg (.rxbStart d)) 0x700 0x100
  | .rxbPay d => eventFits (encode Config.cfg (.rxbPay d)) 0x700 0x100
  | .rxbChk d => eventFits (encode Config.cfg (.rxbChk d)) 0x700 0x100
  | .rxbStop d => eventFits (encode Config.cfg (.rxbStop d)) 0x700 0x100
  | .frame p c => (Instr.frame p c).wellFormed = true →
      ∃ w, encode Config.cfg (.frame p c) = .fr19 w ∧
        w.extractLsb' 144 8 = (0xFA : Byte) ∧ w.extractLsb' 0 8 = (0xF8 : Byte)
  | .init => encode Config.cfg .init = .tx10 0xFA0500000000000005F8

/-- The event word of a byte has RXB's fixed bits. -/
theorem Laws.EncodeMatchesRow.byteWord_fits (d : Byte) :
    eventFits (.ev (0x100 ||| d.setWidth 11)) 0x700 0x100 :=
  ⟨_, rfl, by revert d; decide⟩

theorem Laws.EncodeMatchesRow.rst : Statement .rst := ⟨_, rfl, by decide⟩
theorem Laws.EncodeMatchesRow.rxf : Statement .rxf := ⟨_, rfl, by decide⟩
theorem Laws.EncodeMatchesRow.rxb (d : Byte) : Statement (.rxb d) := byteWord_fits d
theorem Laws.EncodeMatchesRow.idle : Statement .idle := ⟨_, rfl, by decide⟩
theorem Laws.EncodeMatchesRow.rxbStart (d : Byte) : Statement (.rxbStart d) := byteWord_fits d
theorem Laws.EncodeMatchesRow.rxbPay (d : Byte) : Statement (.rxbPay d) := byteWord_fits d
theorem Laws.EncodeMatchesRow.rxbChk (d : Byte) : Statement (.rxbChk d) := byteWord_fits d
theorem Laws.EncodeMatchesRow.rxbStop (d : Byte) : Statement (.rxbStop d) := byteWord_fits d
theorem Laws.EncodeMatchesRow.frame (p : List Byte) (c : Byte) : Statement (.frame p c) := by
  intro h
  have hl : (frameBytes Config.cfg p c).length = 19 := by
    have : p.length = 16 := by simpa [Instr.wellFormed] using h
    rw [frameBytes_length, this]
  refine ⟨_, rfl, ?_, ?_⟩
  · exact frameByte_packFrame _ hl 0 (by omega)
  · have h18 : p.length = 16 := by rw [frameBytes_length] at hl; omega
    have := frameByte_packFrame _ hl 18 (by omega)
    refine this.trans ?_
    simp [frameBytes, List.getD_eq_getElem?_getD, h18, Config.cfg]
theorem Laws.EncodeMatchesRow.init : Statement .init := by
  show encode Config.cfg .init = .tx10 0xFA0500000000000005F8
  decide

end Sys2Proof
end

