-- ==== Sys2Proof/Tests/Slice0.lean ====
section
/-! SUPPORT. Tests of the model, with expected results from 95_test_vectors and the rules, and for each statement with
hypotheses a named state that meets them. -/

namespace Sys2Proof.Tests

open Sys2Proof Sys2Proof.Machine Sys2Proof.Config

/-- Whether an outcome is a next state with property `p`. -/
def nextIs (r : Result) (p : State → Bool) : Bool :=
  match r with
  | .next s => p s
  | .fault _ => false
  | .refused _ => false

/-- Whether an outcome is this refusal. -/
def refusedWith (r : Result) (q : Refusal) : Bool :=
  match r with
  | .next _ => false
  | .fault _ => false
  | .refused q' => q' == q

/-- A buffer that holds these bytes from offset 0 on. -/
def bufOf (bs : List Byte) : Memory := bs.zipIdx.map fun x => (x.2, x.1)

/-- After an RST and the bytes `bs` of a frame (at most 18 of them). -/
def mid (bs : List Byte) : State :=
  { State.reset with
    cnt := Fin.ofNat 19 bs.length
    buf := bufOf bs
    bufWritten := Vector.ofFn fun i => decide (i.val < bs.length)
    acc := checksum ((bs.drop 1).take 16) }

/-- The frame of 95_test_vectors P1, payload and checksum, without its stop byte. -/
def p1 : List Byte :=
  [0xFA, 0x00, 0x00, 0x64, 0x00, 0x64, 0, 0, 0, 0, 0, 0, 0, 0, 0, 0, 0, 0x00]

def ended (s : State) : State := { s with mode := .terminated, err := .invalidStartByte }

/-- The payload of 95_test_vectors 2.4. -/
def p24 : List Byte := [0x00, 0x02, 0x10, 0x15, 0x20, 0, 0, 0, 0, 0, 0, 0, 0, 0, 0, 0]

/-! ### Well-formedness and configuration -/

theorem test_wellFormed_refuses_fifteen_payload_bytes :
    (Instr.frame (List.replicate 15 0) 0).wellFormed = false := by decide
theorem test_cfg_other_frame_size_unsupported : ({ frameSize := 20 } : Cfg).supported = false := by
  decide

/-- The block's configuration with another start marker, as a correction of that literal (00_scope R7). -/
def corrected : Cfg := { startMarker := 0xFB, intWidth := 64 }

theorem test_corrected_marker :
    nextIs (execUnder corrected (.rxb 0xF8) (mid (0xFB :: p1.tail)))
      (fun t => t.lastOutput == .meas 100 84 0x00 1000) = true ∧
    nextIs (execUnder corrected (.rxb 0xF8) (mid p1))
      (fun t => t.lastOutput == .fatal .invalidStartByte 0xFA) = true := by decide

/-! ### Decoding: words written out from 30_encoding R44 to R48 and 95_test_vectors 2.1 and P1 -/

theorem test_decode_rst : decodeTableWord 16 0b00000_1_0_0_00000000 = some .rst := by decide
theorem test_decode_rst_beats_all : decodeTableWord 16 0b00000_1_1_1_11111111 = some .rst := by decide
theorem test_decode_rxf : decodeTableWord 16 0b00000_0_1_0_00000000 = some .rxf := by decide
theorem test_decode_rxf_beats_valid : decodeTableWord 16 0b00000_0_1_1_11111000 = some .rxf := by
  decide
theorem test_decode_rxb : decodeTableWord 16 0b00000_0_0_1_11111010 = some (.rxb 0xFA) := by decide
theorem test_decode_idle_ignores_data : decodeTableWord 16 0b00000_0_0_0_11111010 = some .idle := by
  decide
theorem test_decode_beyond_eleven_bits : decodeTableWord 16 0b00001_0_0_0_00000000 = none := by
  decide
theorem test_decode_frame :
    decodeTableWord 152 0xFA0002101520AABBCCDDEEFF1122334455A7F8 =
      some (.frame [0x00, 0x02, 0x10, 0x15, 0x20, 0xAA, 0xBB, 0xCC, 0xDD, 0xEE, 0xFF, 0x11, 0x22,
        0x33, 0x44, 0x55] 0xA7) := by decide
theorem test_decode_frame_wrong_stop :
    decodeTableWord 152 0xFA0002101520AABBCCDDEEFF1122334455A77E = none := by decide
theorem test_decode_init : decodeTableWord 80 0xFA0500000000000005F8 = some .init := by decide
theorem test_decode_init_other : decodeTableWord 80 0xFA0500000000000006F8 = none := by decide

/-! ### One step of each operation (95_test_vectors 2.2, 2.4, 2.7, P1, P2, P6) -/

theorem test_reset_is_what_rst_leaves :
    nextIs (exec .rst { State.reset with
      rstSeen := false, output := [], mode := .terminated, cnt := 7, acc := 0x5A, err := .invalidStopByte
      div := 7, mValid := true, mCur := 100, mVolt := 84, mChk := 1
      bufWritten := Vector.replicate 19 true }) (· == State.reset) = true := by
  decide
theorem test_rst_zero_divider_refused :
    refusedWith (exec .rst { State.reset with cfgDivider := 0 }) .zeroDivider = true := by decide
theorem test_idle : nextIs (exec .idle (mid (p1.take 7)))
    (· == { mid (p1.take 7) with output := [.none, .none] }) = true := by decide
theorem test_rxf_after_eighteen_bytes : nextIs (exec .rxf (mid p1)) (fun t =>
    t == { mid p1 with
      mode := .terminated, err := .transportError
      output := [.none, .fatal .transportError 18] }) = true := by decide
theorem test_rxf_ignored_in_terminated : nextIs (exec .rxf (ended (mid p1)))
    (fun t => t.lastOutput == .none && t.err == .invalidStartByte) = true := by decide
theorem test_rxb_dropped_in_terminated : nextIs (exec (.rxb 0xFA) (ended State.reset))
    (fun t => t.buf == [] && t.cnt == 0) = true := by decide
theorem test_rxb_marker_in_payload_is_data :
    nextIs (exec (.rxb 0xFA) { mid (p1.take 9) with acc := 0x10 })
      (fun t => t.cnt == 10 && t.acc == 0xEA && t.buf.read 9 == some 0xFA) = true := by decide
theorem test_rxbStart_clears_acc :
    nextIs (exec (.rxbStart 0xFA) { State.reset with acc := 0x37 })
      (fun t => t.cnt == 1 && t.acc == 0x00 && t.buf.read 0 == some 0xFA) = true := by decide
theorem test_rxbPay_folds : nextIs (exec (.rxbPay 0x64) { mid (p1.take 3) with acc := 0x01 })
    (fun t => t.cnt == 4 && t.acc == 0x65 && t.buf.read 3 == some 0x64) = true := by decide
theorem test_rxbChk_keeps_acc : nextIs (exec (.rxbChk 0x64) { mid (p1.take 17) with acc := 0x64 })
    (fun t => t.cnt == 18 && t.acc == 0x64 && t.buf.read 17 == some 0x64) = true := by decide
theorem test_rxbStop_delivers : nextIs (exec (.rxbStop 0xF8) (mid p1))
    (fun t => t.lastOutput == .meas 100 84 0x00 1000 && t.cnt == 0 && t.mValid) = true := by decide
theorem test_rxbStop_swapped_markers :
    nextIs (exec (.rxbStop 0xFA) (mid (0xF8 :: p1.tail)))
      (fun t => t.lastOutput == .fatal .invalidStartByte 0xF8 && t.mode == .terminated) = true := by
  decide
theorem test_frame_vector_2_4 : nextIs (exec (.frame p24 0xA7) State.reset)
    (fun t => t.lastOutput == .diag 0x27 0xA7 && t.err == .invalidChecksum && t.acc == 0x27 &&
      !t.mValid) = true := by decide
theorem test_frame_of_markers_P6 :
    nextIs (exec (goodFrame ([0xFA, 0xF8, 0xFA, 0xF8, 0xFA] ++ List.replicate 11 0xF8)) State.reset)
      (fun t => t.lastOutput == .meas 59770 59770 0x02 1000) = true := by decide
theorem test_init_touches_only_sent : nextIs (exec .init State.reset)
    (· == { State.reset with sent := [0xFA, 0x05, 0, 0, 0, 0, 0, 0, 0x05, 0xF8] }) = true := by decide
theorem test_step_runs_a_fetched_frame :
    nextIs (step (State.reset.withFetchWord 152 0xFA0001F414000000000000000000000000E1F8))
      (fun t => t.lastOutput == .meas 484 4800 0xE1 1000) = true := by decide

/-! ### The checksum and the decoder (95_test_vectors 2.3, 2.5, S4, S5) -/

theorem test_checksum_vectors :
    checksum [0x12, 0x34, 0x56, 0x78] = 0x08 ∧ checksum [0xFA, 0xF8] = 0x02 ∧
    checksum [0x01, 0x02, 0x10, 0x15, 0x20, 0xAA, 0xBB] = 0x37 ∧ checksum p24 = 0x27 := by decide
theorem test_voltNum_vectors :
    voltNum cfg 0 = 0 ∧ voltNum cfg 1 = -15 ∧ voltNum cfg 100 = 84 ∧ voltNum cfg 256 = 240 ∧ voltNum cfg 257 = 225 ∧
    voltNum cfg 4864 = 4560 ∧ voltNum cfg 5119 = 4799 ∧ voltNum cfg 5120 = 4800 ∧ voltNum cfg 5408 = 5072 ∧
    voltNum cfg 63738 = 59770 := by decide
theorem test_curNum_vectors :
    curNum cfg 100 = 100 ∧ curNum cfg 255 = 255 ∧ curNum cfg 256 = 240 ∧ curNum cfg 528 = 496 ∧
    curNum cfg 32768 = 30720 := by decide
theorem test_final_division :
    current 100 10000 = 1 / 100 ∧ voltage cfg 84 = 84 / 1000 ∧ voltage cfg (narrow cfg (-15)) = -15 / 1000 := by
  have h : (narrow cfg (-15)).toInt = -15 := by decide
  refine ⟨?_, ?_, ?_⟩
  · norm_num [current, show (100 : I32).toInt = 100 by decide, show (10000 : U16).toNat = 10000 by decide]
  · norm_num [voltage, show (84 : I32).toInt = 84 by decide, Config.cfg]
  · show ((narrow cfg (-15)).toInt : Rat) / 1000 = _
    rw [h]
    norm_num

/-! ### The host's duties (70_reset R125, R128) -/

theorem test_hostOpens :
    hostOpens [⟨encode cfg .init, 0⟩, ⟨encode cfg .rst, 5000⟩, ⟨encode cfg (.rxb 0xFA), 5000⟩] = true ∧
    hostOpens [⟨encode cfg .rst, 5000⟩, ⟨encode cfg .init, 5000⟩] = false := by decide

/-! ### Witnesses: a state and operands that meet each statement's hypotheses -/

theorem witness_DecodeInvertsEncode :
    (Instr.frame p24 0x27).wellFormed = true ∧
    ∀ d, Instr.frame p24 0x27 ≠ .rxbStart d ∧ Instr.frame p24 0x27 ≠ .rxbPay d ∧
      Instr.frame p24 0x27 ≠ .rxbChk d ∧ Instr.frame p24 0x27 ≠ .rxbStop d :=
  ⟨by decide, fun _ => ⟨nofun, nofun, nofun, nofun⟩⟩
theorem witness_EventWordsSelectExactlyOneOperation :
    (0x7FF : EventWord) &&& 0x400 = 0x400 ∧ (0x3FF : EventWord) &&& 0x600 = 0x200 ∧
    (0x1FF : EventWord) &&& 0x700 = 0x100 ∧ (0x0FF : EventWord) &&& 0x700 = 0x000 := by decide
theorem witness_FrameWordsDecodeByThePattern :
    (0xFAFFFFFFFFFFFFFFFFFFFFFFFFFFFFFFFFFFF8 : FrameWord) &&&
        0xFF0000000000000000000000000000000000FF = 0xFA0000000000000000000000000000000000F8 ∧
    (0xFAFFFFFFFFFFFFFFFFFFFFFFFFFFFFFFFFFFF9 : FrameWord) &&&
        0xFF0000000000000000000000000000000000FF ≠ 0xFA0000000000000000000000000000000000F8 := by
  decide
theorem witness_DecodedOperationsAreWellFormed :
    decode cfg (.fr19 0xFA0001F414000000000000000000000000E1F8) =
      .ok (measFrame 0x01 0xF4 0x14 0x00) := by decide

/-- One item and nothing after it. -/
def presenting (w : Wire) (n : U16) : State := { State.reset with input := [⟨w, n⟩] }

theorem witness_StepRunsTheDecodedOperation :
    (presenting (.ev 0x1FA) 5000).input = ⟨.ev 0x1FA, 5000⟩ :: [] ∧
    decode cfg (.ev 0x1FA) = .ok (.rxb 0xFA) := by decide
theorem witness_StepWithNothingPresentedIsIdle : State.reset.input = [] := rfl
theorem witness_StepRefusesUndecodableBits :
    (presenting (.other 7 1) 1).input = ⟨.other 7 1, 1⟩ :: [] ∧
    decode cfg (.other 7 1) = .error .noSuchFormat := by decide
theorem witness_OtherFrameSizesAreRefused :
    ({ frameSize := 18 } : Cfg).frameSize ≠ 19 ∧ ({ intWidth := 31 } : Cfg).frameSize = 19 ∧
    ({ intWidth := 31 } : Cfg).intWidth < 32 := by decide
theorem witness_ConfigurationIsAParameterOfTheStep :
    corrected.frameSize = 19 ∧ 32 ≤ corrected.intWidth ∧ State.reset.input = [] ∧
    (presenting (.ev 0x1FB) 5000).input = ⟨.ev 0x1FB, 5000⟩ :: [] ∧
    decode corrected (.ev 0x1FB) = .ok (.rxb 0xFB) ∧
    (presenting (.other 7 1) 1).input = ⟨.other 7 1, 1⟩ :: [] ∧
    decode corrected (.other 7 1) = .error .noSuchFormat := by decide
theorem witness_CorrectedLiteralsChangeValuesOnly :
    corrected.frameSize = 19 ∧ 32 ≤ corrected.intWidth ∧ corrected.payFirst = 1 ∧
    corrected.payLast = 16 ∧ corrected.chkOffset = 17 ∧ corrected.stopOffset = 18 ∧
    corrected.curOffset = 2 ∧ corrected.voltOffset = 4 ∧ Live (mid p1) ∧ (mid p1).cnt = 18 ∧
    readByte 0 (mid p1) = .ok 0xFA ∧ readByte 17 (mid p1) = .ok 0x00 ∧
    readByte 2 (mid p1) = .ok 0x00 ∧ readByte 3 (mid p1) = .ok 0x64 ∧
    readByte 4 (mid p1) = .ok 0x00 ∧ readByte 5 (mid p1) = .ok 0x64 ∧ 0xFA ≠ corrected.startMarker ∧
    readByte 0 (mid (0xFB :: p1.tail)) = .ok corrected.startMarker := by decide
theorem witness_IdleOnlyEmitsNone : (ended (mid p1)).rstSeen = true := rfl
theorem witness_ResetLoadsTheResetValues :
    (ended (mid p1)).cfgDivider ≠ 0 ∧ { mid p1 with cfgDivider := 0 }.cfgDivider = 0 := by decide
theorem witness_SecondResetStandsAlone :
    ∃ t u v, exec .rst (mid p1) = .next t ∧ exec .rst { t with cfgDivider := 5000 } = .next u ∧
      exec .rst { mid p1 with cfgDivider := 5000 } = .next v := ⟨_, _, _, rfl, rfl, rfl⟩
theorem witness_BytesNotWrittenSinceResetHaveNoValue :
    (mid p1).cfgDivider ≠ 0 ∧ readByte 0 (mid p1) = .ok 0xFA ∧ ([] : List Byte).length ≤ 18 ∧
    p1.length ≤ 18 := by decide
theorem witness_TransportFailureEndsTheSession : Live State.reset ∧ Live (mid p1) := by decide
theorem witness_NothingRunsBeforeTheFirstReset :
    { State.reset with rstSeen := false }.rstSeen = false ∧ Instr.idle ≠ .rst ∧ Instr.idle ≠ .init := by
  decide
theorem witness_ReceivedByteTakesTheSelectedForm :
    (ended State.reset).rstSeen = true ∧ (ended State.reset).mode = .terminated ∧
    Live (mid (p1.take 0)) ∧ (mid (p1.take 0)).cnt.val = 0 ∧
    Live (mid (p1.take 1)) ∧ (mid (p1.take 1)).cnt.val = 1 ∧
    Live (mid (p1.take 16)) ∧ (mid (p1.take 16)).cnt.val = 16 ∧
    Live (mid (p1.take 17)) ∧ (mid (p1.take 17)).cnt.val = 17 ∧
    Live (mid p1) ∧ (mid p1).cnt.val = 18 := by decide
theorem witness_ReceivedByteTakesTheSelectedForm_completes :
    ∃ t, exec (.rxb 0xF8) (mid p1) = .next t := ⟨_, rfl⟩
theorem witness_StartByteClearsTheAccumulator : Live State.reset ∧ State.reset.cnt = 0 := by decide
theorem witness_PayloadByteIsFolded :
    Live (mid (p1.take 1)) ∧ 1 ≤ (mid (p1.take 1)).cnt.val ∧ (mid (p1.take 1)).cnt.val ≤ 16 ∧
    Live (mid (p1.take 16)) ∧ 1 ≤ (mid (p1.take 16)).cnt.val ∧ (mid (p1.take 16)).cnt.val ≤ 16 := by
  decide
theorem witness_ChecksumByteIsStored : Live (mid (p1.take 17)) ∧ (mid (p1.take 17)).cnt = 17 := by
  decide
theorem witness_WrongStartMarkerEndsTheSession :
    Live (mid (0xFB :: p1.tail)) ∧ (mid (0xFB :: p1.tail)).cnt = 18 ∧
    readByte 0 (mid (0xFB :: p1.tail)) = .ok 0xFB ∧ (0xFB : Byte) ≠ 0xFA := by decide
theorem witness_WrongStopMarkerEndsTheSession :
    Live (mid p1) ∧ (mid p1).cnt = 18 ∧ readByte 0 (mid p1) = .ok 0xFA ∧ (0x7E : Byte) ≠ 0xF8 := by
  decide
theorem witness_WrongChecksumIsRecoverable :
    Live (mid (p1.take 17 ++ [0x01])) ∧ (mid (p1.take 17 ++ [0x01])).cnt = 18 ∧
    readByte 0 (mid (p1.take 17 ++ [0x01])) = .ok 0xFA ∧
    readByte 17 (mid (p1.take 17 ++ [0x01])) = .ok 0x01 ∧
    (mid (p1.take 17 ++ [0x01])).acc ≠ 0x01 := by decide
theorem witness_TrustedFrameIsDelivered :
    Live (mid p1) ∧ (mid p1).cnt = 18 ∧ readByte 0 (mid p1) = .ok 0xFA ∧
    readByte 2 (mid p1) = .ok 0x00 ∧ readByte 3 (mid p1) = .ok 0x64 ∧
    readByte 4 (mid p1) = .ok 0x00 ∧ readByte 5 (mid p1) = .ok 0x64 ∧
    readByte 17 (mid p1) = .ok (mid p1).acc := by decide
theorem witness_EveryCompleteFrameGetsOneVerdict :
    Inv (mid p1) ∧ Live (mid p1) ∧ (mid p1).cnt = 18 := by decide
theorem witness_FormsOutOfPositionAreRefused :
    Live (mid (p1.take 17)) ∧ 17 ≤ (mid (p1.take 17)).cnt.val ∧ (mid (p1.take 17)).cnt.val ≠ 0 ∧
    (mid (p1.take 17)).cnt.val ≠ 18 ∧ Live State.reset ∧ State.reset.cnt.val = 0 ∧
    State.reset.cnt.val ≠ 17 := by decide

/-- The nineteen bytes of 95_test_vectors 2.4 with chosen start, checksum and stop byte. -/
def nineteen (start chk stop : Byte) : List Byte := start :: p24 ++ [chk, stop]

theorem witness_NineteenBytesAreJudgedAsOneRead :
    Live State.reset ∧ State.reset.cnt = 0 ∧
    (nineteen 0x7E 0xA7 0x7E).length = 19 ∧ (nineteen 0x7E 0xA7 0x7E).getD 0 0 ≠ 0xFA ∧
    (nineteen 0xFA 0xA7 0x7E).length = 19 ∧ (nineteen 0xFA 0xA7 0x7E).getD 18 0 ≠ 0xF8 ∧
    (nineteen 0xFA 0xA7 0xF8).length = 19 ∧
    checksum (((nineteen 0xFA 0xA7 0xF8).drop 1).take 16) ≠ (nineteen 0xFA 0xA7 0xF8).getD 17 0 ∧
    (nineteen 0xFA 0x27 0xF8).length = 19 ∧
    checksum (((nineteen 0xFA 0x27 0xF8).drop 1).take 16) = (nineteen 0xFA 0x27 0xF8).getD 17 0 := by
  decide
theorem witness_FrameIsNineteenReceivedBytes : p24.length = 16 := by decide
theorem witness_GoodFrameYieldsItsMeasurement :
    Live State.reset ∧ State.reset.cnt = 0 ∧ p24.length = 16 := by decide
theorem witness_ChecksumRoundTripAndSingleBitErrors :
    Live State.reset ∧ State.reset.cnt = 0 ∧ p24.length = 16 ∧ 15 < 16 ∧ 7 < 8 := by decide
theorem witness_ReservedBytesNeverReachTheNumerators :
    Live State.reset ∧ State.reset.cnt = 0 ∧ p24.length = 16 ∧ (p24.set 15 0x55).length = 16 ∧
    ∀ j, 1 ≤ j → j ≤ 4 → p24.getD j 0 = (p24.set 15 0x55).getD j 0 := by
  refine ⟨by decide, by decide, by decide, by decide, fun j _ h => ?_⟩
  have : ∀ j : Fin 5, p24.getD j.val 0 = (p24.set 15 0x55).getD j.val 0 := by decide
  exact this ⟨j, by omega⟩
theorem witness_CutFrameReportsTransportErrorOnly :
    Live State.reset ∧ State.reset.cnt = 0 ∧ ([] : List Byte).length ≤ 18 ∧ p1.length ≤ 18 := by decide
theorem witness_PositionAndVerdictsFollowTheByteCount :
    Live (mid p1) ∧ (∀ i ∈ [Instr.idle, .rxb 0xF8], i = .idle ∨ ∃ d, i = .rxb d) ∧
    ∃ t, execAll [.idle, .rxb 0xF8] (mid p1) = .next t ∧ t.mode = .running := by
  refine ⟨by decide, by simp, _, rfl, rfl⟩
theorem witness_TerminatedDropsEverythingButReset :
    (ended (mid p1)).rstSeen = true ∧ (ended (mid p1)).mode = .terminated ∧
    isEvent (.rxbPay 1) = true ∧ Instr.rxbPay 1 ≠ .rst ∧
    ∃ t, exec .rst (ended (mid p1)) = .next t ∧ t.mode = .running :=
  ⟨rfl, rfl, rfl, nofun, _, rfl, rfl⟩
theorem witness_OnlyResetLeavesTerminatedInAStep :
    (ended (presenting (.ev 0x400) 5000)).mode = .terminated ∧
    ∃ t, step (ended (presenting (.ev 0x400) 5000)) = .next t ∧ t.mode = .running :=
  ⟨rfl, _, rfl, rfl⟩
theorem witness_ModeTransitionsAreTheTable :
    (∃ t, exec .rst (mid p1) = .next t) ∧ (∃ t, exec .idle (mid p1) = .next t) ∧
    (∃ t, exec .rxf (mid p1) = .next t) ∧ (∃ t, exec (.rxbChk 0) (mid (p1.take 17)) = .next t) ∧
    (∃ t, exec (.rxb 0xF8) (mid p1) = .next t) ∧
    (∃ t, exec (.rxb 0xF8) (mid (p1.take 17 ++ [0x01])) = .next t) ∧
    (∃ t, exec (.rxbStop 0xF8) (mid (0xFB :: p1.tail)) = .next t) ∧
    (∃ t, exec (.rxbStop 0x7E) (mid p1) = .next t) ∧ (mid p1).mode = .running ∧
    readByte 17 (mid p1) = .ok 0x00 ∧ (∃ t, exec (.rxb 1) (ended State.reset) = .next t) :=
  ⟨⟨_, rfl⟩, ⟨_, rfl⟩, ⟨_, rfl⟩, ⟨_, rfl⟩, ⟨_, rfl⟩, ⟨_, rfl⟩, ⟨_, rfl⟩, ⟨_, rfl⟩, rfl, by decide, ⟨_, rfl⟩⟩
theorem witness_EveryErrorIsReported :
    isEvent (.rxbStop 0x7E) = true ∧ Instr.rxbStop 0x7E ≠ .rst ∧
    ∃ t, exec (.rxbStop 0x7E) (mid p1) = .next t ∧ t.mode ≠ (mid p1).mode ∧ t.err ≠ (mid p1).err :=
  ⟨rfl, nofun, _, rfl, by decide, by decide⟩
/-- The clause on a checksum error when `ERR` was 4 already. -/
theorem witness_EveryErrorIsReported_again :
    ∃ t, exec (.rxb 0xF8) { mid (p1.take 17 ++ [0x01]) with err := .invalidChecksum } = .next t ∧
      t.err = .invalidChecksum ∧ t.lastOutput = .diag 0x00 0x01 := ⟨_, rfl, rfl, by decide⟩
theorem witness_OneOutputPerEvent :
    (Instr.frame p24 0x27).wellFormed = true ∧
    (∃ t, exec (.frame p24 0x27) State.reset = .next t) ∧
    (∃ t, exec .rxf State.reset = .next t) ∧ ∃ t, exec .init State.reset = .next t :=
  ⟨by decide, ⟨_, rfl⟩, ⟨_, rfl⟩, ⟨_, rfl⟩⟩
theorem witness_DividerIsSampledAtResetOnly :
    (∃ t, exec .rst (mid p1) = .next t) ∧ Instr.rxb 0xF8 ≠ .rst ∧
    ∃ t, exec (.rxb 0xF8) (mid p1) = .next t := ⟨⟨_, rfl⟩, nofun, ⟨_, rfl⟩⟩
theorem witness_LatchesFollowMeasurementsOnly :
    Instr.rxb 0xF8 ≠ .rst ∧ ∃ t, exec (.rxb 0xF8) (mid p1) = .next t ∧ t.mCur ≠ (mid p1).mCur :=
  ⟨nofun, _, rfl, by decide⟩
theorem witness_AccumulatorUpdatesAreTheTable :
    (∃ t, exec .rst (mid p1) = .next t) ∧ (∃ t, exec .idle (mid p1) = .next t) ∧
    (∃ t, exec (.rxb 1) (ended (mid p1)) = .next t) ∧
    (∃ t, exec (.rxb 1) State.reset = .next t) ∧ (∃ t, exec (.rxb 1) (mid (p1.take 1)) = .next t) ∧
    (∃ t, exec (.rxb 1) (mid (p1.take 16)) = .next t) ∧
    (∃ t, exec (.rxb 1) (mid (p1.take 17)) = .next t) ∧
    (∃ t, exec (.rxb 1) (mid p1) = .next t) ∧ (mid p1).mode = .running :=
  ⟨⟨_, rfl⟩, ⟨_, rfl⟩, ⟨_, rfl⟩, ⟨_, rfl⟩, ⟨_, rfl⟩, ⟨_, rfl⟩, ⟨_, rfl⟩, ⟨_, rfl⟩, rfl⟩
theorem witness_BufferIsWrittenOnlyAtTheCount :
    (∀ p c, Instr.rxb 0xF8 ≠ .frame p c) ∧
    (∃ t, exec (.rxb 0xF8) (mid p1) = .next t ∧ readByte 18 t ≠ readByte 18 (mid p1)) ∧
    ∃ t, exec .rst (mid p1) = .next t ∧ readByte 0 t ≠ readByte 0 (mid p1) :=
  ⟨nofun, ⟨_, rfl, by decide⟩, _, rfl, by decide⟩
/-- Three bytes received, with an earlier frame's bytes behind them. -/
def stale3 : State :=
  { mid (p1.take 3) with
    buf := bufOf (p1.take 3 ++ List.replicate 16 9), bufWritten := Vector.replicate 19 true }

theorem witness_StaleBytesAreNeverObserved :
    SameButStale (mid (p1.take 3)) stale3 ∧ readByte 3 stale3 ≠ readByte 3 (mid (p1.take 3)) ∧
    ∃ t, exec (.rxb 1) (mid (p1.take 3)) = .next t := by
  refine ⟨⟨fun f _ => by cases f <;> rfl, ?_⟩, by decide, _, rfl⟩
  have h : ∀ a : Fin 3, readByte a.val stale3 = readByte a.val (mid (p1.take 3)) := by decide
  exact fun a ha => h ⟨a, ha⟩
theorem witness_StepKeepsTheInvariant :
    Inv (mid p1) ∧ ∃ t, step ((mid p1).withFetchWord 16 0x1F8) = .next t ∧
      Inv ((mid p1).withFetchWord 16 0x1F8) := ⟨by decide, _, rfl, by decide⟩
theorem witness_NoStepFaultsUnderTheInvariant : Inv ((mid p1).withFetchWord 16 0x1F8) := by decide
theorem witness_AbsentBytesFault :
    19 ≤ 19 ∧ 18 < 19 ∧ (mid p1).buf.read 18 = none ∧
    { mid p1 with bufWritten := Vector.replicate 19 false }.bufWritten[0]? ≠ some true ∧
    (mid p1).bufWritten[0]? = some true ∧ (mid p1).buf.read 0 = some 0xFA := by decide
theorem witness_PortsShowTheOutput :
    State.reset.lastOutput = .none ∧
    { State.reset with output := [.meas 1 2 3 4] }.lastOutput = .meas 1 2 3 4 ∧
    { State.reset with output := [.diag 1 2] }.lastOutput = .diag 1 2 ∧
    { State.reset with output := [.fatal .invalidStopByte 1] }.lastOutput = .fatal .invalidStopByte 1 ∧
    { State.reset with output := [.fatal .invalidStartByte 1] }.lastOutput = .fatal .invalidStartByte 1 ∧
    { State.reset with output := [.fatal .transportError 18] }.lastOutput = .fatal .transportError 18 := by
  decide
theorem witness_PortsShowTheOutput_sequence :
    State.reset.output = [] ++ [.none] ∧ { State.reset with output := [] }.output = [] ∧
    State.reset.mode = .running ∧ (ended State.reset).mode = .terminated ∧
    State.reset.err = .noError ∧ (ended State.reset).err = .invalidStartByte ∧
    { State.reset with err := .transportError }.err = .transportError ∧
    { State.reset with err := .invalidStopByte }.err = .invalidStopByte ∧
    { State.reset with err := .invalidChecksum }.err = .invalidChecksum := by decide
theorem witness_MeasurementIsVisibleWithItsStrobe :
    isEvent (.rxb 0xF8) = true ∧ ∃ t, exec (.rxb 0xF8) (mid p1) = .next t ∧
      t.lastOutput = .meas 100 84 0x00 1000 := ⟨rfl, _, rfl, by decide⟩
theorem witness_ChecksumLawsHold :
    [1, 2].Perm [2, (1 : Byte)] ∧ checksum ([0x10] ++ [0x20]) = checksum ([0x30] ++ [(0 : Byte)]) ∧
    p24.length = 16 := ⟨List.Perm.swap _ _ _, by decide, by decide⟩
theorem witness_FieldsAreReadHighByteFirst :
    readByte 2 (mid p1) = .ok 0x00 ∧ readByte (2 + 1) (mid p1) = .ok 0x64 := by decide
theorem witness_NumeratorsHaveTheClosedForms :
    (19 < 256 ∧ 255 < 256) ∧ (19 < 20 ∧ 255 ≠ 0) ∧ ¬(19 < 20 ∧ 0 ≠ 0) ∧ ¬(20 < 20 ∧ 1 ≠ 0) := by
  decide
theorem witness_NumeratorRangesAndShape :
    65535 < 65536 ∧ (1000 : U16) ≠ 0 ∧ (1000 : U16).toNat ≤ (10000 : U16).toNat := by decide
theorem witness_DecoderNeverOverflows : 18 ≤ 18 ∧ 65535 < 65536 := by decide
theorem witness_ExactFinalDivisionGivesTheMeasurement : 65535 < 65536 ∧ (1 : U16) ≠ 0 := by decide

end Sys2Proof.Tests
end

section
/-! PROOFS. What a configuration fixes (00_scope R4, R5, R7, R8): which configurations the step accepts, what one cycle
does under an accepted one, and the verdict on a complete frame under any markers and constants. -/

namespace Sys2Proof.Machine

/-! ### Which configurations are accepted -/

theorem supported_iff (c : Cfg) : c.supported = true ↔ c.frameSize = 19 ∧ 32 ≤ c.intWidth := by
  simp [Cfg.supported, Cfg.frameSizeOk, Cfg.intWidthOk]

theorem underCfg_of_frameSize_ne (c : Cfg) (r : Result) (h : c.frameSize ≠ 19) :
    underCfg c r = .refused .frameSizeNot19 := by
  simp [underCfg, Cfg.frameSizeOk, h]

theorem underCfg_of_intWidth_lt (c : Cfg) (r : Result) (h : c.frameSize = 19)
    (hw : c.intWidth < 32) : underCfg c r = .refused .intWidthBelow32 := by
  simp [underCfg, Cfg.frameSizeOk, Cfg.intWidthOk, h, hw]

/-! ### One cycle under an accepted configuration -/

/-- The bits of empty ports are the event word of IDLE, under every configuration (30_encoding R45). -/
theorem decode_no_input (c : Cfg) : decode c (.ev 0x000) = .ok .idle := rfl

section
variable {c : Cfg} (run : Instr → State → Result) {s : State} {x : Item} {xs : List Item}

theorem cycle_of_input_nil (hc : c.supported = true) (h : s.input = []) :
    cycle c run s = run .idle s := by
  rw [cycle_supported c run s hc, fetch_nil s h, decode_no_input]

theorem cycle_of_decode_ok {i : Instr} (hc : c.supported = true) (h : s.input = x :: xs)
    (hi : decode c x.wire = .ok i) :
    cycle c run s = run i { s with input := xs, cfgDivider := x.cfgDivider } := by
  rw [cycle_supported c run s hc, fetch_cons s x xs h, hi]

theorem cycle_of_decode_error {e : DecodeError} (hc : c.supported = true) (h : s.input = x :: xs)
    (he : decode c x.wire = .error e) : cycle c run s = .refused (.undecodable e) := by
  rw [cycle_supported c run s hc, fetch_cons s x xs h, he]

end

/-- Each meaning of the dispatch is the one for any configuration, taken under the block's own. -/
theorem execUnder_cfg (i : Instr) (s : State) : execUnder Config.cfg i s = exec i s := by
  cases i <;> rfl

theorem stepUnder_cfg (s : State) : stepUnder Config.cfg s = step s := by
  have hrun : execUnder Config.cfg = exec := funext fun i => funext (execUnder_cfg i)
  rw [stepUnder, step, hrun]

/-! ### Which fields the shared updates change -/

theorem Field.same_trans {f : Field} {s t u : State} (h : f.same s t) (h' : f.same t u) :
    f.same s u := by
  cases f <;> exact Eq.trans h' h

/-- Two updates in a row change no field but those that one of them changes. -/
theorem ChangesOnly.trans {fs gs hs : List Field} {s t u : State} (h : ChangesOnly fs s t)
    (h' : ChangesOnly gs t u) (hf : fs ⊆ hs) (hg : gs ⊆ hs) : ChangesOnly hs s u :=
  fun f hn => Field.same_trans (h f fun hm => hn (hf hm)) (h' f fun hm => hn (hg hm))

theorem changesOnly_storeAndAdvance (d : Byte) (s : State) :
    ChangesOnly [.cnt] s (storeAndAdvance d s) := by
  intro f hf
  cases f <;> simp_all [Field.same]

theorem changesOnly_raise (e : Exc) (s : State) : ChangesOnly [.mode, .err, .output] s (raise e s) := by
  intro f hf
  cases f <;> simp_all [Field.same]

/-- A recoverable exception keeps `MODE` (60_exceptions R107). -/
theorem changesOnly_raise_recoverable (e : Exc) (s : State) (h : e.cause.isFatal = false) :
    ChangesOnly [.err, .output] s (raise e s) := by
  intro f hf
  cases f <;> simp_all [Field.same]

/-! ### The verdict under any configuration (42_frame_validator R79, R84) -/

/-- What DELIVER leaves (R84): the latches hold the numerators of the two raw fields, `ERR` is clear,
`Meas` is emitted. -/
def delivered (c : Cfg) (rawCur rawVolt : Int) (chk : Byte) (s : State) : State :=
  emit (.meas (narrow c (curNum c rawCur)) (narrow c (voltNum c rawVolt)) chk s.div)
    { s with
      mCur := narrow c (curNum c rawCur), mVolt := narrow c (voltNum c rawVolt), mChk := chk
      mValid := true, err := .noError }

theorem deliver_eq_delivered {c : Cfg} {s : State} {rawCur rawVolt : Nat} {chk : Byte}
    (hcur : curOperand c s = .ok rawCur) (hvolt : voltOperand c s = .ok rawVolt)
    (hchk : chkOperand c s = .ok chk) :
    deliver c s = .next (delivered c rawCur rawVolt chk s) :=
  (deliver_eq_next c s _).mpr ⟨rawCur, rawVolt, chk, hcur, hvolt, hchk, rfl⟩

theorem changesOnly_delivered (c : Cfg) (rawCur rawVolt : Int) (chk : Byte) (s : State) :
    ChangesOnly [.err, .mValid, .mCur, .mVolt, .mChk, .output] s
      (delivered c rawCur rawVolt chk s) := by
  intro f hf
  cases f <;> simp_all [Field.same, delivered]

/-- What VERDICT leaves on the operands of a complete frame: the first check that fails decides (R79). -/
def judged (c : Cfg) (start stop chk : Byte) (rawCur rawVolt : Int) (s : State) : State :=
  if start ≠ c.startMarker then raise (.invalidStartByte start) s
  else if stop ≠ c.stopMarker then raise (.invalidStopByte stop) s
  else if s.acc ≠ chk then raise (.invalidChecksum s.acc chk) s
  else delivered c rawCur rawVolt chk s

/-- The verdict on a frame whose operands can all be read. -/
theorem verdict_eq_judged {c : Cfg} {s : State} {start stop chk : Byte} {rawCur rawVolt : Nat}
    (hstart : startOperand s = .ok start) (hstop : stopOperand c s = .ok stop)
    (hchk : chkOperand c s = .ok chk) (hcur : curOperand c s = .ok rawCur)
    (hvolt : voltOperand c s = .ok rawVolt) :
    verdict c s = .next (judged c start stop chk rawCur rawVolt s) := by
  refine (verdict_eq_next c s _).mpr ⟨start, hstart, ?_⟩
  unfold judged startOk stopOk chkOk
  split_ifs with h0 h1 h2
  · exact .inl ⟨by simpa using h0, rfl⟩
  · exact .inr ⟨by simpa using h0, stop, hstop, .inl ⟨by simpa using h1, rfl⟩⟩
  · exact .inr ⟨by simpa using h0, stop, hstop,
      .inr ⟨by simpa using h1, chk, hchk, .inl ⟨by simpa using h2, rfl⟩⟩⟩
  · exact .inr ⟨by simpa using h0, stop, hstop, .inr ⟨by simpa using h1, chk, hchk,
      .inr ⟨by simpa using h2, deliver_eq_delivered hcur hvolt hchk⟩⟩⟩

section
variable (c : Cfg) (start stop chk : Byte) (rawCur rawVolt : Int) (s : State)

@[simp] theorem judged_cnt : (judged c start stop chk rawCur rawVolt s).cnt = s.cnt := by
  unfold judged; split_ifs <;> rfl

@[simp] theorem judged_buf : (judged c start stop chk rawCur rawVolt s).buf = s.buf := by
  unfold judged; split_ifs <;> rfl

@[simp] theorem judged_bufWritten :
    (judged c start stop chk rawCur rawVolt s).bufWritten = s.bufWritten := by
  unfold judged; split_ifs <;> rfl

/-- The verdict writes no byte of the frame buffer. -/
@[simp] theorem readByte_judged (a : Nat) :
    readByte a (judged c start stop chk rawCur rawVolt s) = readByte a s :=
  readByte_congr a (judged_buf ..) (judged_bufWritten ..)

end

/-! ### The last byte of a frame under the frame's offsets -/

/-- With the frame's offsets, `CNT` 18 selects RXB.STOP (40_input_stage R62). -/
theorem formAt_last (c : Cfg) (hpf : c.payFirst = 1) (hpl : c.payLast = 16)
    (hchk : c.chkOffset = 17) : formAt c 18 = .stop := by
  simp [formAt, hpf, hpl, hchk]

theorem execUnder_rxb_of_stop {c : Cfg} (d : Byte) {s : State} (h : formAt c s.cnt = .stop) :
    execUnder c (.rxb d) s = execUnder c (.rxbStop d) s := by
  simp only [execUnder, execRxbUnder, h]

theorem execUnder_rxbStop_live {c : Cfg} (d : Byte) {s : State} (hl : Live s)
    (h : formAt c s.cnt = .stop) :
    execUnder c (.rxbStop d) s = verdict c (storeAndAdvance d s) :=
  onForm_live c .stop s _ hl h

/-- The verdict that the last byte `d` brings, in terms of the bytes that were in the buffer before it. -/
theorem verdict_storeAndAdvance_eq_judged {c : Cfg} {s : State}
    {start chk ch cl vh vl : Byte} (d : Byte)
    (hchkO : c.chkOffset = 17) (hstopO : c.stopOffset = 18) (hcurO : c.curOffset = 2)
    (hvoltO : c.voltOffset = 4) (hc : s.cnt.val = 18)
    (h0 : readByte 0 s = .ok start) (h17 : readByte 17 s = .ok chk)
    (h2 : readByte 2 s = .ok ch) (h3 : readByte 3 s = .ok cl)
    (h4 : readByte 4 s = .ok vh) (h5 : readByte 5 s = .ok vl) :
    verdict c (storeAndAdvance d s) = .next (judged c start d chk
      ↑(ch.toNat * c.fieldRadix + cl.toNat) ↑(vh.toNat * c.fieldRadix + vl.toNat)
      (storeAndAdvance d s)) := by
  have earlier : ∀ {a : Nat} {b : Byte}, a ≠ 18 → readByte a s = .ok b →
      readByte a (storeAndAdvance d s) = .ok b := fun ha h => (readByte_atStop hc ha).trans h
  apply verdict_eq_judged
  · exact earlier (by decide) h0
  · rw [stopOperand, hstopO]; exact readByte_atStop_last hc
  · rw [chkOperand, hchkO]; exact earlier (by decide) h17
  · rw [curOperand, hcurO]
    exact memRead_two c 2 _ ch cl (earlier (by decide) h2) (earlier (by decide) h3)
  · rw [voltOperand, hvoltO]
    exact memRead_two c 4 _ vh vl (earlier (by decide) h4) (earlier (by decide) h5)

/-! ### The obligations -/

/-- Settles O60: the last byte is stored, then `judged` on the operands read back is the verdict, row by row. -/
theorem correctedLiteralsChangeValuesOnly : Obligations.CorrectedLiteralsChangeValuesOnly := by
  unfold Obligations.CorrectedLiteralsChangeValuesOnly
  intro c s start chk ch cl vh vl d _ hw hpf hpl hchkO hstopO hcurO hvoltO hl hc h0 h17 h2 h3 h4 h5
  have hv : s.cnt.val = 18 := by rw [hc]; rfl
  have hform : formAt c s.cnt = .stop := hc ▸ formAt_last c hpf hpl hchkO
  have hstop := (execUnder_rxbStop_live d hl hform).trans
    (verdict_storeAndAdvance_eq_judged d hchkO hstopO hcurO hvoltO hv h0 h17 h2 h3 h4 h5)
  have hstore := changesOnly_storeAndAdvance d s
  refine ⟨_, ((ch.toNat * c.fieldRadix + cl.toNat : ℕ) : ℤ),
    ((vh.toNat * c.fieldRadix + vl.toNat : ℕ) : ℤ), by simp, by simp,
    hstop, (execUnder_rxb_of_stop d hform).trans hstop, ?_, ?_, ?_, ?_⟩
  · simp [hc]
  · intro a ha
    rw [readByte_judged, readByte_storeAndAdvance_other d s a ha]
  · rw [readByte_judged, readByte_atStop_last hv]
  unfold judged
  rw [storeAndAdvance_acc]
  split_ifs
  · -- the start marker is wrong
    exact ⟨rfl, rfl, hstore.trans (changesOnly_raise _ _) (by decide) (by decide), rfl⟩
  · -- the stop marker is wrong
    exact ⟨rfl, rfl, hstore.trans (changesOnly_raise _ _) (by decide) (by decide), rfl⟩
  · -- the checksum is wrong
    exact ⟨hl.2, rfl, hstore.trans (changesOnly_raise_recoverable _ _ rfl) (by decide) (by decide),
      rfl⟩
  · -- the frame is trusted
    exact ⟨hl.2, rfl, rfl, rfl, narrow_eq c _ hw, narrow_eq c _ hw,
      hstore.trans (changesOnly_delivered _ _ _ _ _) (by decide) (by decide), rfl⟩

/-- Settles O8: nothing to present is the event word of IDLE. -/
theorem stepWithNothingPresentedIsIdle : Obligations.StepWithNothingPresentedIsIdle := by
  unfold Obligations.StepWithNothingPresentedIsIdle
  intro s h
  exact cycle_of_input_nil exec cfg_supported h

/-- Settles O10: the guard of the step refuses, whatever the cycle would do. -/
theorem otherFrameSizesAreRefused : Obligations.OtherFrameSizesAreRefused := by
  unfold Obligations.OtherFrameSizesAreRefused
  exact ⟨underCfg_of_frameSize_ne, underCfg_cfg,
    fun c _ h => underCfg_of_frameSize_ne c _ h,
    fun c _ h hw => underCfg_of_intWidth_lt c _ h hw⟩

/-- Settles O59: one cycle under a supported configuration, for each thing the input can hold. -/
theorem configurationIsAParameterOfTheStep : Obligations.ConfigurationIsAParameterOfTheStep := by
  unfold Obligations.ConfigurationIsAParameterOfTheStep
  refine ⟨stepUnder_cfg, execUnder_cfg, fun c s h19 hw => ?_⟩
  have hc : c.supported = true := (supported_iff c).mpr ⟨h19, hw⟩
  refine ⟨fun h => ?_, fun x xs h => ⟨fun i hi => ?_, fun e he => ?_⟩⟩
  · exact cycle_of_input_nil (execUnder c) hc h
  · exact cycle_of_decode_ok (execUnder c) hc h hi
  · exact cycle_of_decode_error (execUnder c) hc h he

end Sys2Proof.Machine
end

section
/-! PROOFS. What every operation does to the state (10_state R20 to R25): one inversion of `exec` for all operations
but FRAME, and what follows from it for the latches, the ports and the frame buffer's writes. -/

namespace Sys2Proof.Machine

/-! ### What a completed operation leaves -/

/-- `ACC` after byte `d` is received in `Running` (10_state R14, 40_input_stage R63 to R66). -/
def accAfter (d : Byte) (s : State) : Byte :=
  if s.cnt.val = 0 then 0x00 else if s.cnt.val ≤ 16 then s.acc ^^^ d else s.acc

/-- Everything that byte `d`, received in `Running`, can leave: it is stored, and with the last byte the frame is
rejected or delivered. -/
inductive Received (d : Byte) (s : State) : State → Prop
  | byteStored (hc : s.cnt.val ≤ 17) :
      Received d s (emit .none { storeAndAdvance d s with acc := accAfter d s })
  | frameRejected (hc : s.cnt.val = 18) (e : Exc) : Received d s (raise e (storeAndAdvance d s))
  | frameDelivered (hc : s.cnt.val = 18) (rawCur rawVolt : Nat) (chk : Byte)
      (hcur : rawCur < 65536) (hvolt : rawVolt < 65536) :
      Received d s (delivered Config.cfg rawCur rawVolt chk (storeAndAdvance d s))

theorem received_of_execRxb {d : Byte} {s t : State} (h : execRxb d s = .next t)
    (hm : s.mode = .running) : Received d s t := by
  have stored : ∀ x, accAfter d s = x → s.cnt.val ≤ 17 →
      Received d s (emit .none { storeAndAdvance d s with acc := x }) := by
    rintro x rfl hc
    exact .byteStored hc
  obtain ⟨-, ⟨hm', -⟩ | ⟨-, hform⟩⟩ := (execRxb_eq_next d s t).mp h
  · simp [hm] at hm'
  rcases hform with ⟨hc, rfl⟩ | ⟨h1, h16, rfl⟩ | ⟨hc, rfl⟩ | ⟨hc, hv⟩
  · exact stored _ (if_pos hc) (by omega)
  · exact stored _ (by rw [accAfter, if_neg (by omega), if_pos h16]) (by omega)
  · exact stored s.acc (by rw [accAfter, if_neg (by omega), if_neg (by omega)]) (by omega)
  · obtain ⟨b, -, ⟨-, rfl⟩ | ⟨-, -, rfl⟩ | ⟨-, -, k, -, ⟨-, rfl⟩ | ⟨-, rc, rv, hrc, hrv, rfl⟩⟩⟩ :=
      verdict_atStop hc hv
    · exact .frameRejected hc _
    · exact .frameRejected hc _
    · exact .frameRejected hc _
    · exact .frameDelivered hc rc rv k (memRead_two_lt hrc) (memRead_two_lt hrv)

section
variable {d : Byte} {s t : State}

/-- A received byte is stored and counted; `DIV` and `rstSeen` stay. -/
theorem Received.frame (h : Received d s t) :
    t.cnt = s.cnt + 1 ∧ t.buf = (storeAndAdvance d s).buf ∧
      t.bufWritten = (storeAndAdvance d s).bufWritten ∧ t.div = s.div ∧ t.rstSeen = s.rstSeen := by
  cases h <;> exact ⟨rfl, rfl, rfl, rfl, rfl⟩

theorem Received.acc_eq (h : Received d s t) : t.acc = accAfter d s := by
  cases h with
  | byteStored => rfl
  | frameRejected hc => simp [accAfter, hc]
  | frameDelivered hc => simp [accAfter, hc, delivered]

theorem Received.byteAt_eq (h : Received d s t) (a : Nat) :
    byteAt a t = if a = s.cnt.val then some d else byteAt a s := by
  obtain ⟨-, hbuf, hw, -⟩ := h.frame
  rw [byteAt_congr a hbuf hw, byteAt_storeAndAdvance]

theorem Received.readByte_same (h : Received d s t) : readByte s.cnt.val t = .ok d := by
  obtain ⟨-, hbuf, hw, -⟩ := h.frame
  rw [readByte_congr _ hbuf hw, readByte_storeAndAdvance_same]

theorem Received.readByte_other (h : Received d s t) {a : Nat} (ha : a ≠ s.cnt.val) :
    readByte a t = readByte a s := by
  obtain ⟨-, hbuf, hw, -⟩ := h.frame
  rw [readByte_congr _ hbuf hw, readByte_storeAndAdvance_other d s a ha]

end

/-- Everything that operation `i`, not FRAME, can leave when it completes. -/
inductive Effect (i : Instr) (s : State) : State → Prop
  | reset (hi : i = .rst) (hdiv : s.cfgDivider ≠ 0) :
      Effect i s (emit .none (openSession s.cfgDivider s))
  | sent (hi : i = .init) : Effect i s { s with sent := s.sent ++ Config.initSeq }
  | ignored (hi : i ≠ .rst) (hr : s.rstSeen = true) : Effect i s (emit .none s)
  | failed (hi : i = .rxf) (hl : Live s) : Effect i s (raise (.transportError (receivedCount s)) s)
  | received {t : State} (d : Byte) (hd : byteOf i = some d) (hl : Live s) (hrec : Received d s t) :
      Effect i s t

theorem execRxb_dropped_or_received {d : Byte} {s t : State} (h : execRxb d s = .next t) :
    (s.rstSeen = true ∧ t = emit .none s) ∨ (Live s ∧ Received d s t) := by
  obtain ⟨hr, hcase⟩ := (execRxb_eq_next d s t).mp h
  rcases hcase with ⟨-, rfl⟩ | ⟨hm, -⟩
  · exact .inl ⟨hr, rfl⟩
  · exact .inr ⟨⟨hr, hm⟩, received_of_execRxb h hm⟩

theorem effect_of_exec {i : Instr} {s t : State} (hi : ∀ p c, i ≠ .frame p c)
    (h : exec i s = .next t) : Effect i s t := by
  have byteEvent : ∀ d, byteOf i = some d → Effect i s t := by
    intro d hd
    have hne : i ≠ .rst := by rintro rfl; cases hd
    rcases execRxb_dropped_or_received (byteEvent_eq_next hd h) with ⟨hr, rfl⟩ | ⟨hl, hrec⟩
    · exact .ignored hne hr
    · exact .received d hd hl hrec
  cases i with
  | rst =>
    obtain ⟨hdiv, rfl⟩ := (execRst_eq_next s t).mp h
    exact .reset rfl hdiv
  | rxf =>
    obtain ⟨hr, ⟨hm, rfl⟩ | ⟨-, rfl⟩⟩ := (execRxf_eq_next s t).mp h
    · exact .failed rfl ⟨hr, hm⟩
    · exact .ignored nofun hr
  | idle =>
    obtain ⟨hr, rfl⟩ := (execIdle_eq_next s t).mp h
    exact .ignored nofun hr
  | init => cases h; exact .sent rfl
  | frame p c => exact absurd rfl (hi p c)
  | rxb d => exact byteEvent d rfl
  | rxbStart d => exact byteEvent d rfl
  | rxbPay d => exact byteEvent d rfl
  | rxbChk d => exact byteEvent d rfl
  | rxbStop d => exact byteEvent d rfl

/-- FRAME is its bytes (30_encoding R56): a reflexive and transitive relation that every received byte keeps needs a
proof for the other operations only. -/
theorem exec_lift {R : State → State → Prop} (refl : ∀ s, R s s)
    (trans : ∀ s t u, R s t → R t u → R s u) (byte : ∀ d s t, execRxb d s = .next t → R s t)
    {i : Instr} {s t : State} (other : (∀ p c, i ≠ .frame p c) → R s t)
    (h : exec i s = .next t) : R s t := by
  by_cases hi : ∃ p c, i = .frame p c
  · obtain ⟨p, c, rfl⟩ := hi
    exact receiveAll_lift R refl trans byte _ s t h
  · exact other fun p c hpc => hi ⟨p, c, hpc⟩

theorem effect_of_execRxb {d : Byte} {s t : State} (h : execRxb d s = .next t) : Effect (.rxb d) s t :=
  effect_of_exec nofun h

/-! ### The latches and the ports -/

theorem lastOutput_emit (o : Output) (s : State) : (emit o s).lastOutput = o := by
  simp [State.lastOutput]

theorem lastOutput_raise (e : Exc) (s : State) : (raise e s).lastOutput = e.report :=
  lastOutput_emit _ _

theorem report_ne_meas (e : Exc) (cur volt : I32) (chk : Byte) (dv : U16) :
    e.report ≠ .meas cur volt chk dv := by
  cases e <;> nofun

/-- `DIV` and the outputs so far stay, and the latches either stay or are those of an emitted Meas (10_state R16, R17). -/
def LatchesFollow (s t : State) : Prop :=
  t.div = s.div ∧ ∃ os, t.output = s.output ++ os ∧
    (ChangesOnly [.mode, .cnt, .acc, .err, .output, .sent] s t ∨
      (t.mValid = true ∧ Output.meas t.mCur t.mVolt t.mChk s.div ∈ os))

theorem LatchesFollow.refl (s : State) : LatchesFollow s s :=
  ⟨rfl, [], by simp, .inl fun f _ => by cases f <;> rfl⟩

theorem LatchesFollow.trans {s t u : State} (h : LatchesFollow s t) (h' : LatchesFollow t u) :
    LatchesFollow s u := by
  obtain ⟨hdiv, os, hos, hst⟩ := h
  obtain ⟨hdiv', os', hos', htu⟩ := h'
  refine ⟨hdiv'.trans hdiv, os ++ os', by rw [hos', hos, List.append_assoc], ?_⟩
  rcases htu with hkeep | ⟨hv, hmem⟩
  · rcases hst with hkeep' | ⟨hv, hmem⟩
    · exact .inl (hkeep'.trans hkeep (by decide) (by decide))
    · have hvalid : u.mValid = t.mValid := hkeep .mValid (by decide)
      have hcur : u.mCur = t.mCur := hkeep .mCur (by decide)
      have hvolt : u.mVolt = t.mVolt := hkeep .mVolt (by decide)
      have hchk : u.mChk = t.mChk := hkeep .mChk (by decide)
      rw [hvalid, hcur, hvolt, hchk]
      exact .inr ⟨hv, List.mem_append_left _ hmem⟩
  · rw [hdiv] at hmem
    exact .inr ⟨hv, List.mem_append_right _ hmem⟩

/-- An update that adds outputs only and leaves the latches alone. -/
theorem LatchesFollow.of_changesOnly {s t : State} {os : List Output}
    (hos : t.output = s.output ++ os)
    (h : ChangesOnly [.mode, .cnt, .acc, .err, .output, .sent] s t) : LatchesFollow s t :=
  ⟨h .div (by decide), os, hos, .inl h⟩

theorem Received.latchesFollow {d : Byte} {s t : State} (h : Received d s t) : LatchesFollow s t := by
  cases h with
  | byteStored => exact .of_changesOnly rfl fun f hf => by cases f <;> simp_all [Field.same]
  | frameRejected _ e =>
    exact .of_changesOnly rfl ((changesOnly_storeAndAdvance d s).trans
      (changesOnly_raise e _) (by decide) (by decide))
  | frameDelivered => exact ⟨rfl, _, rfl, .inr ⟨rfl, List.mem_singleton.mpr rfl⟩⟩

theorem Effect.latchesFollow {i : Instr} {s t : State} (hi : i ≠ .rst) (h : Effect i s t) :
    LatchesFollow s t := by
  cases h with
  | reset h => exact absurd h hi
  | sent => exact .of_changesOnly (os := []) (by simp) fun f hf => by cases f <;> simp_all [Field.same]
  | ignored => exact .of_changesOnly rfl fun f hf => by cases f <;> simp_all [Field.same]
  | failed => exact .of_changesOnly rfl fun f hf => by cases f <;> simp_all [Field.same]
  | received _ _ _ hrec => exact hrec.latchesFollow

/-- Settles O41: each byte of a FRAME, and every other operation, makes the latches follow its outputs. -/
theorem latchesFollowMeasurementsOnly : Obligations.LatchesFollowMeasurementsOnly := by
  unfold Obligations.LatchesFollowMeasurementsOnly
  intro i s t hi h
  obtain ⟨-, os, hos, hcase⟩ : LatchesFollow s t :=
    exec_lift LatchesFollow.refl (fun _ _ _ => LatchesFollow.trans)
      (fun d _ _ hb => Effect.latchesFollow (i := .rxb d) nofun (effect_of_execRxb hb))
      (fun hf => (effect_of_exec hf h).latchesFollow hi) h
  have hnew : newOutputs s t = os := by simp [newOutputs, hos]
  rwa [hnew]

/-- Settles O50: only a delivered frame emits Meas, and it latches the same values (10_state R24). -/
theorem measurementIsVisibleWithItsStrobe : Obligations.MeasurementIsVisibleWithItsStrobe := by
  unfold Obligations.MeasurementIsVisibleWithItsStrobe
  intro i s t cur volt chk dv hev h hlast
  have hframe : ∀ p c, i ≠ .frame p c := by rintro p c rfl; cases hev
  cases effect_of_exec hframe h with
  | reset => simp [lastOutput_emit] at hlast
  | sent hi => subst hi; cases hev
  | ignored => simp [lastOutput_emit] at hlast
  | failed => exact absurd ((lastOutput_raise _ _).symm.trans hlast) (report_ne_meas _ _ _ _ _)
  | received d _ _ hrec =>
    cases hrec with
    | byteStored => simp [lastOutput_emit] at hlast
    | frameRejected _ e =>
      exact absurd ((lastOutput_raise _ _).symm.trans hlast) (report_ne_meas _ _ _ _ _)
    | frameDelivered =>
      rw [delivered, lastOutput_emit, Output.meas.injEq] at hlast
      obtain ⟨rfl, rfl, rfl, rfl⟩ := hlast
      simp [State.ports, lastOutput_emit, delivered, Output.ok]

/-! ### The frame buffer -/

/-- Settles O43: only a received byte stores, at `CNT`, and only RST takes values away. -/
theorem bufferIsWrittenOnlyAtTheCount : Obligations.BufferIsWrittenOnlyAtTheCount := by
  unfold Obligations.BufferIsWrittenOnlyAtTheCount
  intro i s t a hframe h
  cases effect_of_exec hframe h with
  | reset hi =>
    refine ⟨?_, fun _ hne => ?_⟩
    · rintro (hne | ⟨hne, -⟩)
      · exact absurd rfl hne
      · exact absurd hi hne
    · rw [readByte_emit] at hne ⊢
      refine readByte_openSession _ _ _ (Nat.lt_of_not_le fun h19 => hne ?_)
      simp [readByte, h19]
  | sent hi =>
    subst hi
    exact ⟨by rintro (hne | ⟨-, hne⟩) <;> exact absurd rfl hne, nofun⟩
  | ignored hi =>
    exact ⟨by rintro (hne | ⟨-, hne⟩) <;> exact absurd rfl hne, fun h' => absurd h' hi⟩
  | failed hi =>
    subst hi
    exact ⟨by rintro (hne | ⟨-, hne⟩) <;> exact absurd rfl hne, nofun⟩
  | received d hd hl hrec =>
    obtain ⟨-, hbuf, -⟩ := hrec.frame
    refine ⟨fun hne => ?_, by rintro rfl; cases hd⟩
    have ha : a = s.cnt.val := by
      by_contra ha
      rcases hne with hne | ⟨-, hne⟩
      · rw [hbuf] at hne
        exact hne (Memory.read_write_other _ _ _ _ ha)
      · exact hne (hrec.readByte_other ha)
    subst ha
    exact ⟨rfl, hl.2, d, hd, by simp [hbuf], hrec.readByte_same⟩

end Sys2Proof.Machine
end

section
/-! PROOFS. The invariant of reachable states (10_state R20): every step keeps it, and under it no rule reads a byte that
is not there (R21). -/

namespace Sys2Proof.Machine

/-! ### The payload received so far -/

theorem checksum_append (bs cs : List Byte) : checksum (bs ++ cs) = checksum bs ^^^ checksum cs := by
  induction bs with
  | nil => simp
  | cons b bs ih => simp [ih, BitVec.xor_assoc]

theorem payloadBytes_congr {s t : State} {n : Nat} (h : ∀ k < n, byteAt (k + 1) t = byteAt (k + 1) s) :
    payloadBytes t n = payloadBytes s n :=
  List.filterMap_congr fun k hk => h k (List.mem_range.mp hk)

theorem payloadBytes_succ {s : State} {n : Nat} {b : Byte} (h : byteAt (n + 1) s = some b) :
    payloadBytes s (n + 1) = payloadBytes s n ++ [b] := by
  simp [payloadBytes, List.range_succ, h]

section
variable {d : Byte} {s t : State}

/-- A received byte leaves the payload before it as it was. -/
theorem Received.payloadBytes_before (h : Received d s t) {n : Nat} (hn : n < s.cnt.val) :
    payloadBytes t n = payloadBytes s n :=
  payloadBytes_congr fun k hk => by rw [h.byteAt_eq, if_neg (by omega)]

/-- A received byte at `CNT` extends the payload by itself. -/
theorem Received.payloadBytes_at (h : Received d s t) {n : Nat} (hn : s.cnt.val = n + 1) :
    payloadBytes t s.cnt.val = payloadBytes s n ++ [d] := by
  have hd : byteAt (n + 1) t = some d := by rw [h.byteAt_eq, if_pos hn.symm]
  rw [hn, payloadBytes_succ hd, h.payloadBytes_before (by omega)]

theorem Received.written (h : Received d s t) (hw : Written s s.cnt.val) :
    Written t (s.cnt.val + 1) := by
  intro a ha
  rw [h.byteAt_eq]
  split
  · rfl
  · exact hw a (by omega)

end

/-! ### The numerators at the latches (43_decoder R98) -/

theorem curNum_range {r : Nat} (h : r < 65536) :
    0 ≤ curNum Config.cfg r ∧ curNum Config.cfg r ≤ 61455 := by
  have hq : Int.tdiv r 256 = r / 256 := Int.tdiv_eq_ediv_of_nonneg (by omega)
  simp only [curNum, tdiv, cfg_fieldRadix, cfg_corrMul, Nat.cast_ofNat, hq]
  omega

theorem voltNum_range {r : Nat} (h : r < 65536) :
    -15 ≤ voltNum Config.cfg r ∧ voltNum Config.cfg r ≤ 61455 := by
  simp only [voltNum, tdiv, cfg_fieldRadix, cfg_corrMul, cfg_vBias, cfg_vCorrBias, Nat.cast_ofNat]
  rcases Nat.lt_or_ge r 5120 with hlow | hhigh
  · have hq : Int.tdiv ((r : Int) - 5120) 256 = -((5120 - r) / 256) := by
      rw [show (r : Int) - 5120 = -(5120 - r) by omega, Int.neg_tdiv,
        Int.tdiv_eq_ediv_of_nonneg (by omega)]
    omega
  · have hq : Int.tdiv ((r : Int) - 5120) 256 = (r - 5120) / 256 :=
      Int.tdiv_eq_ediv_of_nonneg (by omega)
    omega

/-! ### Each part of the invariant -/

section
variable {d : Byte} {s t : State}

theorem Inv.written (h : Inv s) (hl : Live s) : Written s s.cnt.val := by
  obtain ⟨-, hrun⟩ := h
  obtain ⟨hacc, -⟩ := hrun hl.1
  by_cases hc : s.cnt = 0
  · exact fun a ha => absurd ha (by simp [hc])
  · exact ((hacc hl.2).1 hc).1

theorem Received.bufAgrees (h : Received d s t) (hs : BufAgrees s) : BufAgrees t := by
  obtain ⟨-, hbuf, hw, -⟩ := h.frame
  obtain ⟨hwf, hcell⟩ := hs
  refine ⟨by rw [hbuf]; exact storeAndAdvance_wf d s hwf, fun a ha hset => ?_⟩
  rw [hw, storeAndAdvance_bufWritten] at hset
  rw [hbuf, storeAndAdvance_buf]
  by_cases hac : a = s.cnt.val
  · rw [hac, Memory.read_write_same]; rfl
  · rw [Vector.getElem?_set_ne _ (Ne.symm hac)] at hset
    rw [Memory.read_write_other _ _ _ _ hac]
    exact hcell a ha hset

/-- `ACC` follows the bytes of the frame: START clears it, PAY folds the byte, CHK and STOP leave it. -/
theorem Received.acc_eq_checksum (h : Received d s t)
    (hacc : s.cnt.val ≠ 0 → s.acc = checksum (payloadBytes s (min (s.cnt.val - 1) 16))) :
    t.acc = checksum (payloadBytes t (min s.cnt.val 16)) := by
  rw [h.acc_eq, accAfter]
  split_ifs with h0 h16
  · rw [h0]; rfl
  · obtain ⟨n, hn⟩ := Nat.exists_eq_succ_of_ne_zero h0
    rw [Nat.min_eq_left h16, h.payloadBytes_at hn, checksum_append, hacc h0,
      show min (s.cnt.val - 1) 16 = n by omega]
    simp
  · rw [hacc h0, show min (s.cnt.val - 1) 16 = 16 by omega, Nat.min_eq_right (by omega),
      h.payloadBytes_before (by omega)]

theorem Received.accAgrees (h : Received d s t) (hinv : Inv s) (hl : Live s) : AccAgrees t := by
  intro _
  have hwritten : Written t (s.cnt.val + 1) := h.written (hinv.written hl)
  obtain ⟨hacc, -⟩ := hinv.2 hl.1
  have hsum : t.acc = checksum (payloadBytes t (min s.cnt.val 16)) :=
    h.acc_eq_checksum fun h0 => ((hacc hl.2).1 fun hc => h0 (by simp [hc])).2
  have hlt := s.cnt.isLt
  have hcnt : t.cnt.val = (s.cnt.val + 1) % 19 := by rw [h.frame.1, cnt_succ_val]
  rcases Nat.lt_or_ge s.cnt.val 18 with hc | hc
  · have hnext : t.cnt.val = s.cnt.val + 1 := by omega
    rw [hnext]
    exact ⟨fun _ => ⟨hwritten, hsum⟩, fun h0 => absurd (congrArg Fin.val h0) (by simp [hnext])⟩
  · have hboundary : t.cnt = 0 := Fin.ext (by simp; omega)
    rw [show s.cnt.val = 18 by omega] at hwritten hsum
    exact ⟨fun h0 => absurd hboundary h0, fun _ => .inr ⟨hwritten, hsum⟩⟩

theorem raise_errAgrees (e : Exc) (s : State) (hm : s.mode = .running) : ErrAgrees (raise e s) := by
  cases hf : e.cause.isFatal <;> simp [ErrAgrees, hf, hm]

theorem Received.errAgrees (h : Received d s t) (hs : ErrAgrees s) (hl : Live s) : ErrAgrees t := by
  cases h with
  | byteStored => exact hs
  | frameRejected _ e => exact raise_errAgrees e _ hl.2
  | frameDelivered => exact ⟨fun hm => absurd (hl.2.symm.trans hm) nofun, fun _ => rfl⟩

theorem Received.latchesInRange (h : Received d s t) (hs : LatchesInRange s) : LatchesInRange t := by
  cases h with
  | byteStored => exact hs
  | frameRejected => exact hs
  | frameDelivered _ rawCur rawVolt chk hcur hvolt =>
    intro _
    obtain ⟨c0, c1⟩ := curNum_range hcur
    obtain ⟨v0, v1⟩ := voltNum_range hvolt
    simp only [delivered, emit_mCur, emit_mVolt]
    rw [narrow_toInt _ (by omega) c1, narrow_toInt _ v0 v1]
    exact ⟨c0, c1, v0, v1⟩

theorem Received.inv (h : Received d s t) (hinv : Inv s) (hl : Live s) : Inv t := by
  obtain ⟨-, herr, hlatch, hdiv⟩ := hinv.2 hl.1
  obtain ⟨-, -, -, hdiv', -⟩ := h.frame
  exact ⟨h.bufAgrees hinv.1, fun _ =>
    ⟨h.accAgrees hinv hl, h.errAgrees herr hl, h.latchesInRange hlatch, by rwa [hdiv']⟩⟩

end

/-! ### The step keeps the invariant -/

theorem openSession_inv {n : U16} {s : State} (hs : BufAgrees s) (hn : n ≠ 0) :
    Inv (openSession n s) := by
  refine ⟨⟨hs.1, fun a _ hset => ?_⟩, fun _ => ⟨?_, ?_, ?_, hn⟩⟩
  · simp [Vector.getElem?_replicate] at hset
  · exact fun _ => ⟨fun h0 => absurd rfl h0, fun _ => .inl rfl⟩
  · exact ⟨nofun, fun _ => rfl⟩
  · exact nofun

theorem raise_inv {e : Exc} {s : State} (hs : Inv s) (hm : s.mode = .running)
    (he : e.cause.isFatal = true) : Inv (raise e s) := by
  refine ⟨hs.1, fun hr => ?_⟩
  obtain ⟨-, -, hlatch, hdiv⟩ := hs.2 hr
  have hterm : (raise e s).mode = .terminated := raise_fatal_mode e s he
  exact ⟨fun hrun => absurd (hterm.symm.trans hrun) nofun, raise_errAgrees e s hm, hlatch, hdiv⟩

theorem Effect.inv {i : Instr} {s t : State} (h : Effect i s t) (hs : Inv s) : Inv t := by
  cases h with
  | reset _ hdiv =>
    have hopen : Inv (openSession s.cfgDivider s) := openSession_inv hs.1 hdiv
    exact hopen
  | sent => exact hs
  | ignored => exact hs
  | failed _ hl => exact raise_inv hs hl.2 rfl
  | received d _ hl hrec => exact hrec.inv hs hl

theorem exec_inv {i : Instr} {s t : State} (h : exec i s = .next t) (hs : Inv s) : Inv t :=
  exec_lift (R := fun s t => Inv s → Inv t) (fun _ => id) (fun _ _ _ h h' => h' ∘ h)
    (fun _ _ _ hb => (effect_of_execRxb hb).inv) (fun hf => (effect_of_exec hf h).inv) h hs

/-- The fetch takes an input item and sets the port, of which the invariant does not speak. -/
theorem fetch_inv {s : State} (hs : Inv s) : Inv (fetch s).2 := by
  cases hin : s.input with
  | nil => rwa [fetch_nil s hin]
  | cons x xs => rw [fetch_cons s x xs hin]; exact hs

/-- Settles O45: the fetch keeps the invariant, and so does every operation, FRAME byte by byte. -/
theorem stepKeepsTheInvariant : Obligations.StepKeepsTheInvariant := by
  unfold Obligations.StepKeepsTheInvariant
  intro s t hs h
  obtain ⟨i, -, hexec⟩ := (step_eq_next s t).mp h
  exact exec_inv hexec (fetch_inv hs)

/-- Settles O46: the state after reset is what an RST leaves. -/
theorem resetMeetsTheInvariant : Obligations.ResetMeetsTheInvariant :=
  openSession_inv (n := Config.resetDivider) (s := State.reset) ⟨reset_buf_wf, by decide⟩ (by decide)

/-! ### No rule reads a byte that is not there -/

theorem Written.readByte {s : State} {n a : Nat} (h : Written s n) (ha : a < n) (h19 : a < 19) :
    ∃ b, readByte a s = .ok b := by
  obtain ⟨b, hb⟩ := Option.isSome_iff_exists.mp (h a ha)
  exact ⟨b, (readByte_ok_iff a s b).mpr ⟨h19, hb⟩⟩

/-- With the eighteen bytes before it in the buffer, the last byte always brings a verdict. -/
theorem verdict_completes (d : Byte) {s : State} (hc : s.cnt.val = 18) (hw : Written s 18) :
    ∃ t, verdict Config.cfg (storeAndAdvance d s) = .next t := by
  obtain ⟨start, h0⟩ := hw.readByte (a := 0) (by decide) (by decide)
  obtain ⟨ch, h2⟩ := hw.readByte (a := 2) (by decide) (by decide)
  obtain ⟨cl, h3⟩ := hw.readByte (a := 3) (by decide) (by decide)
  obtain ⟨vh, h4⟩ := hw.readByte (a := 4) (by decide) (by decide)
  obtain ⟨vl, h5⟩ := hw.readByte (a := 5) (by decide) (by decide)
  obtain ⟨chk, h17⟩ := hw.readByte (a := 17) (by decide) (by decide)
  exact ⟨_, verdict_storeAndAdvance_eq_judged d rfl rfl rfl rfl hc h0 h17 h2 h3 h4 h5⟩

/-- A positional form faults only where its body runs and faults. -/
theorem onForm_eq_fault {cfg : Cfg} {f : Form} {s : State} {body : Result} {e : Fault}
    (h : onForm cfg f s body = .fault e) : Live s ∧ formAt cfg s.cnt = f ∧ body = .fault e := by
  cases hr : s.rstSeen with
  | false => rw [onForm, afterReset_unseen _ _ hr] at h; cases h
  | true =>
    cases hm : s.mode with
    | terminated => rw [onForm_terminated _ _ _ _ hr hm] at h; cases h
    | running =>
      by_cases hf : formAt cfg s.cnt = f
      · rw [onForm_live _ _ _ _ ⟨hr, hm⟩ hf] at h
        exact ⟨⟨hr, hm⟩, hf, h⟩
      · rw [onForm_elsewhere _ _ _ _ ⟨hr, hm⟩ hf] at h; cases h

/-- Of the four forms only RXB.STOP can fault, in its verdict; so can RXB where it is that form. -/
theorem byteEvent_eq_fault {i : Instr} {d : Byte} (hd : byteOf i = some d) {s : State} {e : Fault}
    (h : exec i s = .fault e) :
    Live s ∧ s.cnt.val = 18 ∧ verdict Config.cfg (storeAndAdvance d s) = .fault e := by
  have start : execRxbStart d s ≠ .fault e := fun h => by cases (onForm_eq_fault h).2.2
  have pay : execRxbPay d s ≠ .fault e := fun h => by cases (onForm_eq_fault h).2.2
  have chk : execRxbChk d s ≠ .fault e := fun h => by cases (onForm_eq_fault h).2.2
  have stop : execRxbStop d s = .fault e →
      Live s ∧ s.cnt.val = 18 ∧ verdict Config.cfg (storeAndAdvance d s) = .fault e := fun h => by
    obtain ⟨hl, hf, hv⟩ := onForm_eq_fault h
    exact ⟨hl, (formAt_stop s.cnt).mp hf, hv⟩
  cases i <;> cases hd
  case rxb =>
    change execRxb d s = .fault e at h
    cases hf : formAt Config.cfg s.cnt <;> simp only [execRxb, execRxbUnder, hf] at h
    case start => exact absurd h start
    case pay => exact absurd h pay
    case chk => exact absurd h chk
    case stop => exact stop h
  case rxbStart => exact absurd h start
  case rxbPay => exact absurd h pay
  case rxbChk => exact absurd h chk
  case rxbStop => exact stop h

theorem byteEvent_ne_fault {i : Instr} {d : Byte} (hd : byteOf i = some d) {s : State} (hs : Inv s)
    (e : Fault) : exec i s ≠ .fault e := by
  intro h
  obtain ⟨hl, hc, hfault⟩ := byteEvent_eq_fault hd h
  obtain ⟨t, ht⟩ := verdict_completes d hc (by simpa [hc] using hs.written hl)
  cases ht.symm.trans hfault

theorem receiveAll_ne_fault {bs : List Byte} {s : State} (hs : Inv s) (e : Fault) :
    receiveAll Config.cfg bs s ≠ .fault e := by
  induction bs generalizing s with
  | nil => nofun
  | cons b bs ih =>
    rw [receiveAll_cons]
    cases hb : execRxb b s with
    | next u => exact ih (exec_inv (i := .rxb b) hb hs)
    | fault f => exact absurd hb (byteEvent_ne_fault (i := .rxb b) rfl hs f)
    | refused q => nofun

theorem exec_ne_fault (i : Instr) {s : State} (hs : Inv s) (e : Fault) : exec i s ≠ .fault e := by
  cases i with
  | rst =>
    change execRst s ≠ _
    unfold execRst
    split <;> nofun
  | rxf =>
    change execRxf s ≠ _
    unfold execRxf afterReset whenRunning
    split
    · split <;> nofun
    · nofun
  | idle =>
    change execIdle s ≠ _
    unfold execIdle afterReset
    split <;> nofun
  | init => nofun
  | frame p c => exact receiveAll_ne_fault hs e
  | rxb d => exact byteEvent_ne_fault rfl hs e
  | rxbStart d => exact byteEvent_ne_fault rfl hs e
  | rxbPay d => exact byteEvent_ne_fault rfl hs e
  | rxbChk d => exact byteEvent_ne_fault rfl hs e
  | rxbStop d => exact byteEvent_ne_fault rfl hs e

/-- Settles O47: a step that decodes runs an operation from a state that meets the invariant; one that does not is
refused. -/
theorem noStepFaultsUnderTheInvariant : Obligations.NoStepFaultsUnderTheInvariant := by
  unfold Obligations.NoStepFaultsUnderTheInvariant
  intro s e hs h
  rw [step, cycle_supported _ _ _ cfg_supported] at h
  cases hd : decode Config.cfg (fetch s).1 with
  | ok i => rw [hd] at h; exact exec_ne_fault i (fetch_inv hs) e h
  | error q => rw [hd] at h; cases h

end Sys2Proof.Machine
end

section
/-! PROOFS. Which bytes of the frame buffer can be observed: none at or after `CNT` (10_state R21, 20_memory R37), and
after an RST only those received since (93_implementation_defined U2). -/

namespace Sys2Proof.Machine

/-! ### Two states that differ in the buffer only -/

/-- The state with another frame buffer. -/
def withBuffer (m : Memory) (w : Vector Bool 19) (s : State) : State :=
  { s with buf := m, bufWritten := w }

theorem changesOnly_nil_iff {s t : State} :
    ChangesOnly [] s t ↔ t = withBuffer t.buf t.bufWritten s := by
  constructor
  · intro h
    have same : ∀ f : Field, f.same s t := fun f => h f List.not_mem_nil
    have hmode : t.mode = s.mode := same .mode
    have hcnt : t.cnt = s.cnt := same .cnt
    have hacc : t.acc = s.acc := same .acc
    have herr : t.err = s.err := same .err
    have hdiv : t.div = s.div := same .div
    have hvalid : t.mValid = s.mValid := same .mValid
    have hcur : t.mCur = s.mCur := same .mCur
    have hvolt : t.mVolt = s.mVolt := same .mVolt
    have hchk : t.mChk = s.mChk := same .mChk
    have hseen : t.rstSeen = s.rstSeen := same .rstSeen
    have hport : t.cfgDivider = s.cfgDivider := same .cfgDivider
    have hinput : t.input = s.input := same .input
    have houtput : t.output = s.output := same .output
    have hsent : t.sent = s.sent := same .sent
    cases t
    simp_all [withBuffer]
  · intro h f _
    rw [h]
    cases f <;> rfl

/-- `SameButStale` through the other state's buffer. -/
theorem sameButStale_iff {s t : State} :
    SameButStale s t ↔
      ∃ m w, t = withBuffer m w s ∧
        ∀ a < s.cnt.val, readByte a (withBuffer m w s) = readByte a s := by
  constructor
  · rintro ⟨hf, hb⟩
    have ht := changesOnly_nil_iff.mp hf
    exact ⟨_, _, ht, by rwa [← ht]⟩
  · rintro ⟨m, w, rfl, hb⟩
    exact ⟨changesOnly_nil_iff.mpr rfl, hb⟩

section
variable {s s' : State}

theorem SameButStale.emit (h : SameButStale s s') (o : Output) :
    SameButStale (emit o s) (emit o s') := by
  obtain ⟨m, w, rfl, hb⟩ := sameButStale_iff.mp h
  exact sameButStale_iff.mpr ⟨m, w, rfl, hb⟩

theorem SameButStale.raise (h : SameButStale s s') (e : Exc) :
    SameButStale (raise e s) (raise e s') := by
  obtain ⟨m, w, rfl, hb⟩ := sameButStale_iff.mp h
  exact sameButStale_iff.mpr ⟨m, w, rfl, hb⟩

theorem SameButStale.setAcc (h : SameButStale s s') (x : Byte) :
    SameButStale { s with acc := x } { s' with acc := x } := by
  obtain ⟨m, w, rfl, hb⟩ := sameButStale_iff.mp h
  exact sameButStale_iff.mpr ⟨m, w, rfl, hb⟩

theorem SameButStale.setSent (h : SameButStale s s') (x : List Byte) :
    SameButStale { s with sent := x } { s' with sent := x } := by
  obtain ⟨m, w, rfl, hb⟩ := sameButStale_iff.mp h
  exact sameButStale_iff.mpr ⟨m, w, rfl, hb⟩

/-- After an RST no byte belongs to a frame being received. -/
theorem SameButStale.openSession (h : SameButStale s s') (n : U16) :
    SameButStale (openSession n s) (openSession n s') := by
  obtain ⟨m, w, rfl, -⟩ := sameButStale_iff.mp h
  exact sameButStale_iff.mpr ⟨m, _, rfl, nofun⟩

/-- The stored byte reads the same in both, and so do the bytes before it. -/
theorem readByte_storeAndAdvance_withBuffer {m : Memory} {w : Vector Bool 19}
    (hb : ∀ a < s.cnt.val, readByte a (withBuffer m w s) = readByte a s) (d : Byte) {a : Nat}
    (ha : a ≤ s.cnt.val) :
    readByte a (storeAndAdvance d (withBuffer m w s)) = readByte a (storeAndAdvance d s) := by
  rcases Nat.lt_or_eq_of_le ha with ha | rfl
  · rw [readByte_storeAndAdvance_other _ _ _ (Nat.ne_of_lt ha),
      readByte_storeAndAdvance_other _ (withBuffer m w s) _ (Nat.ne_of_lt ha), hb a ha]
  · rw [readByte_storeAndAdvance_same]
    exact readByte_storeAndAdvance_same d (withBuffer m w s)

theorem SameButStale.storeAndAdvance (h : SameButStale s s') (d : Byte) :
    SameButStale (storeAndAdvance d s) (storeAndAdvance d s') := by
  obtain ⟨m, w, rfl, hb⟩ := sameButStale_iff.mp h
  refine sameButStale_iff.mpr ⟨_, _, rfl, fun a ha => ?_⟩
  have hle : a ≤ s.cnt.val := by
    rw [storeAndAdvance_cnt, cnt_succ_val] at ha
    omega
  exact readByte_storeAndAdvance_withBuffer hb d hle

end

theorem memRead_congr {cfg : Cfg} {a n : Nat} {s t : State}
    (h : ∀ k < n, readByte (a + k) t = readByte (a + k) s) : memRead cfg a n t = memRead cfg a n s := by
  induction n with
  | zero => rfl
  | succ n ih => simp only [memRead, ih fun k hk => h k (by omega), h n (by omega)]

/-- The verdict observes the buffer through its nineteen bytes alone, and writes none. -/
theorem verdict_withBuffer {m : Memory} {w : Vector Bool 19} {s t : State}
    (hb : ∀ a < 19, readByte a (withBuffer m w s) = readByte a s)
    (h : verdict Config.cfg s = .next t) :
    verdict Config.cfg (withBuffer m w s) = .next (withBuffer m w t) := by
  have hcur : curOperand Config.cfg (withBuffer m w s) = curOperand Config.cfg s :=
    memRead_congr fun k hk => hb (2 + k) (by omega)
  have hvolt : voltOperand Config.cfg (withBuffer m w s) = voltOperand Config.cfg s :=
    memRead_congr fun k hk => hb (4 + k) (by omega)
  have hchk : chkOperand Config.cfg (withBuffer m w s) = chkOperand Config.cfg s :=
    hb 17 (by decide)
  have hstop : stopOperand Config.cfg (withBuffer m w s) = stopOperand Config.cfg s :=
    hb 18 (by decide)
  have hstart : startOperand (withBuffer m w s) = startOperand s := hb 0 (by decide)
  rw [verdict_eq_next] at h ⊢
  rw [hstart, hstop, hchk]
  obtain ⟨b, h0, ⟨c0, rfl⟩ | ⟨c0, e, h18, ⟨c1, rfl⟩ | ⟨c1, k, h17, ⟨c2, rfl⟩ | ⟨c2, hd⟩⟩⟩⟩ := h
  · exact ⟨b, h0, .inl ⟨c0, rfl⟩⟩
  · exact ⟨b, h0, .inr ⟨c0, e, h18, .inl ⟨c1, rfl⟩⟩⟩
  · exact ⟨b, h0, .inr ⟨c0, e, h18, .inr ⟨c1, k, h17, .inl ⟨c2, rfl⟩⟩⟩⟩
  · obtain ⟨rawCur, rawVolt, chk, hc, hv, hk, rfl⟩ := (deliver_eq_next _ _ _).mp hd
    refine ⟨b, h0, .inr ⟨c0, e, h18, .inr ⟨c1, k, h17, .inr ⟨c2, ?_⟩⟩⟩⟩
    exact deliver_eq_delivered (hcur.trans hc) (hvolt.trans hv) (hchk.trans hk)

/-! ### Operations from such states -/

/-- The outcome `r` is a next state that differs from `t` in stale bytes only. -/
abbrev GoesOnLike (r : Result) (t : State) : Prop := ∃ t', r = .next t' ∧ SameButStale t t'

theorem execRxb_sameButStale {d : Byte} {s s' t : State} (hs : SameButStale s s')
    (h : execRxb d s = .next t) : GoesOnLike (execRxb d s') t := by
  obtain ⟨m, w, rfl, hb⟩ := sameButStale_iff.mp hs
  have hstore := hs.storeAndAdvance d
  obtain ⟨hr, hcase⟩ := (execRxb_eq_next d s t).mp h
  rcases hcase with ⟨hm, rfl⟩ | ⟨hm, ⟨hc, rfl⟩ | ⟨h1, h16, rfl⟩ | ⟨hc, rfl⟩ | ⟨hc, hv⟩⟩
  · exact ⟨_, (execRxb_eq_next _ _ _).mpr ⟨hr, .inl ⟨hm, rfl⟩⟩, hs.emit _⟩
  · exact ⟨_, (execRxb_eq_next _ _ _).mpr ⟨hr, .inr ⟨hm, .inl ⟨hc, rfl⟩⟩⟩, (hstore.setAcc _).emit _⟩
  · exact ⟨_, (execRxb_eq_next _ _ _).mpr ⟨hr, .inr ⟨hm, .inr (.inl ⟨h1, h16, rfl⟩)⟩⟩,
      (hstore.setAcc _).emit _⟩
  · exact ⟨_, (execRxb_eq_next _ _ _).mpr ⟨hr, .inr ⟨hm, .inr (.inr (.inl ⟨hc, rfl⟩))⟩⟩, hstore.emit _⟩
  · have hv' := verdict_withBuffer (m := m.write s.cnt.val d) (w := w.set s.cnt.val true s.cnt.isLt)
      (fun a ha => readByte_storeAndAdvance_withBuffer hb d (by omega)) hv
    refine ⟨_, (execRxb_eq_next _ _ _).mpr ⟨hr, .inr ⟨hm, .inr (.inr (.inr ⟨hc, hv'⟩))⟩⟩,
      sameButStale_iff.mpr ⟨_, _, rfl, ?_⟩⟩
    have hboundary : t.cnt.val = 0 := by
      rw [(received_of_execRxb h hm).frame.1, cnt_succ_val, hc]
    intro a ha
    omega

theorem receiveAll_sameButStale {bs : List Byte} {s s' t : State} (hs : SameButStale s s')
    (h : receiveAll Config.cfg bs s = .next t) : GoesOnLike (receiveAll Config.cfg bs s') t := by
  induction bs generalizing s s' with
  | nil => cases h; exact ⟨s', rfl, hs⟩
  | cons b bs ih =>
    rw [receiveAll_cons] at h ⊢
    obtain ⟨u, hu, ht⟩ := (andThen_eq_next _ _ _).mp h
    obtain ⟨u', hu', hsu⟩ := execRxb_sameButStale hs hu
    rw [hu']
    exact ih hsu ht

/-- Where a positional form completes, it is RXB from every state with the same `CNT`, `MODE` and `rstSeen`. -/
theorem byteEvent_eq_execRxb {i : Instr} {d : Byte} (hd : byteOf i = some d) {s s' t : State}
    (h : exec i s = .next t) (hcnt : s'.cnt = s.cnt) (hmode : s'.mode = s.mode)
    (hseen : s'.rstSeen = s.rstSeen) : exec i s' = execRxb d s' := by
  have form : ∀ {f : Form} {body body' : Result}, onForm Config.cfg f s body = .next t →
      (formAt Config.cfg s'.cnt = f → onForm Config.cfg f s' body' = execRxb d s') →
      onForm Config.cfg f s' body' = execRxb d s' := by
    intro f body body' hf hsel
    obtain ⟨hr, ⟨-, hform, -⟩ | ⟨hm, -⟩⟩ := (onForm_eq_next _ _ _ _ _).mp hf
    · exact hsel (by rw [hcnt, hform])
    · rw [onForm_terminated _ _ _ _ (hseen.trans hr) (hmode.trans hm),
        execRxb_terminated _ _ (hseen.trans hr) (hmode.trans hm)]
  cases i <;> cases hd
  case rxb => rfl
  case rxbStart => exact form h fun hf => by rw [execRxb_start d s' ((formAt_start _).mp hf)]; rfl
  case rxbPay =>
    refine form h fun hf => ?_
    obtain ⟨h1, h16⟩ := (formAt_pay _).mp hf
    rw [execRxb_pay d s' h1 h16]; rfl
  case rxbChk => exact form h fun hf => by rw [execRxb_chk d s' ((formAt_chk _).mp hf)]; rfl
  case rxbStop => exact form h fun hf => by rw [execRxb_stop d s' ((formAt_stop _).mp hf)]; rfl

theorem byteEvent_sameButStale {i : Instr} {d : Byte} (hd : byteOf i = some d) {s s' t : State}
    (hs : SameButStale s s') (h : exec i s = .next t) : GoesOnLike (exec i s') t := by
  have same : ∀ f : Field, f.same s s' := fun f => hs.1 f List.not_mem_nil
  rw [byteEvent_eq_execRxb hd h (same .cnt) (same .mode) (same .rstSeen)]
  exact execRxb_sameButStale hs (byteEvent_eq_next hd h)

/-- Settles O44: no operation reads a byte at or after `CNT` but the one it has just stored there. -/
theorem staleBytesAreNeverObserved : Obligations.StaleBytesAreNeverObserved := by
  unfold Obligations.StaleBytesAreNeverObserved
  intro i s s' t hs h
  have hs' := hs
  obtain ⟨m, w, rfl, -⟩ := sameButStale_iff.mp hs'
  cases i with
  | rst =>
    obtain ⟨hdiv, rfl⟩ := (execRst_eq_next s t).mp h
    exact ⟨_, (execRst_eq_next _ _).mpr ⟨hdiv, rfl⟩, (hs.openSession _).emit _⟩
  | rxf =>
    obtain ⟨hr, ⟨hm, rfl⟩ | ⟨hm, rfl⟩⟩ := (execRxf_eq_next s t).mp h
    · exact ⟨_, (execRxf_eq_next _ _).mpr ⟨hr, .inl ⟨hm, rfl⟩⟩, hs.raise _⟩
    · exact ⟨_, (execRxf_eq_next _ _).mpr ⟨hr, .inr ⟨hm, rfl⟩⟩, hs.emit _⟩
  | idle =>
    obtain ⟨hr, rfl⟩ := (execIdle_eq_next s t).mp h
    exact ⟨_, (execIdle_eq_next _ _).mpr ⟨hr, rfl⟩, hs.emit _⟩
  | init => cases h; exact ⟨_, rfl, hs.setSent _⟩
  | frame p c => exact receiveAll_sameButStale hs h
  | rxb d => exact byteEvent_sameButStale rfl hs h
  | rxbStart d => exact byteEvent_sameButStale rfl hs h
  | rxbPay d => exact byteEvent_sameButStale rfl hs h
  | rxbChk d => exact byteEvent_sameButStale rfl hs h
  | rxbStop d => exact byteEvent_sameButStale rfl hs h

/-! ### What has a value after an RST -/

theorem readByte_outOfRange {s : State} {a : Nat} (h : 19 ≤ a) :
    readByte a s = .error (.offsetOutOfRange a) := if_pos h

theorem readByte_unwritten {s : State} {a : Nat} (h : a < 19) (hb : byteAt a s = none) :
    readByte a s = .error (.unwrittenByte a) := by
  simp only [readByte, if_neg (Nat.not_le.mpr h), hb]

theorem byteAt_eq_none {s : State} {a : Nat}
    (h : s.bufWritten[a]? ≠ some true ∨ s.buf.read a = none) : byteAt a s = none := by
  unfold byteAt
  split
  · rename_i hw
    exact h.resolve_left fun hn => hn hw
  · rfl

/-- The session is open and its frame buffer holds `bs`, received since the RST, and nothing else. -/
structure Holds (bs : List Byte) (s : State) : Prop where
  live : Live s
  cnt : s.cnt.val = bs.length
  byteAt_eq : ∀ a, byteAt a s = bs[a]?

theorem holds_nil_of_reset (n : U16) (s : State) : Holds [] (emit .none (openSession n s)) where
  live := ⟨rfl, rfl⟩
  cnt := rfl
  byteAt_eq a := by simp

/-- A byte that does not complete a frame is always stored. -/
theorem execRxb_stores (d : Byte) {s : State} (hl : Live s) (hc : s.cnt.val < 18) :
    ∃ t, execRxb d s = .next t ∧ Live t := by
  obtain ⟨hr, hm⟩ := hl
  rcases (show s.cnt.val = 0 ∨ (1 ≤ s.cnt.val ∧ s.cnt.val ≤ 16) ∨ s.cnt.val = 17 by omega) with
    h0 | ⟨h1, h16⟩ | h17
  · exact ⟨_, (execRxb_eq_next d s _).mpr ⟨hr, .inr ⟨hm, .inl ⟨h0, rfl⟩⟩⟩, hr, hm⟩
  · exact ⟨_, (execRxb_eq_next d s _).mpr ⟨hr, .inr ⟨hm, .inr (.inl ⟨h1, h16, rfl⟩)⟩⟩, hr, hm⟩
  · exact ⟨_, (execRxb_eq_next d s _).mpr ⟨hr, .inr ⟨hm, .inr (.inr (.inl ⟨h17, rfl⟩))⟩⟩, hr, hm⟩

theorem Holds.receive {bs : List Byte} {s : State} (h : Holds bs s) (d : Byte)
    (hlen : bs.length < 18) : ∃ t, exec (.rxb d) s = .next t ∧ Holds (bs ++ [d]) t := by
  have hc := h.cnt
  obtain ⟨t, ht, hl⟩ := execRxb_stores d h.live (by omega)
  have hrec := received_of_execRxb ht h.live.2
  refine ⟨t, ht, hl, ?_, fun a => ?_⟩
  · rw [hrec.frame.1, cnt_succ_val, List.length_append, List.length_singleton]
    omega
  · rw [hrec.byteAt_eq, h.byteAt_eq, hc]
    split
    · subst a; simp
    · rcases Nat.lt_or_ge a bs.length with ha | ha
      · rw [List.getElem?_append_left ha]
      · rw [List.getElem?_eq_none ha, List.getElem?_eq_none (by simp; omega)]

theorem Holds.receiveMany {bs : List Byte} {s : State} (h : Holds bs s) (ds : List Byte)
    (hlen : bs.length + ds.length ≤ 18) :
    ∃ t, execAll (ds.map Instr.rxb) s = .next t ∧ Holds (bs ++ ds) t := by
  induction ds generalizing bs s with
  | nil => exact ⟨s, rfl, by simpa using h⟩
  | cons d ds ih =>
    rw [List.length_cons] at hlen
    obtain ⟨u, hu, hrec⟩ := h.receive d (by omega)
    obtain ⟨t, ht, hall⟩ := ih hrec (by rw [List.length_append, List.length_singleton]; omega)
    exact ⟨t, (andThen_eq_next _ _ _).mpr ⟨u, hu, ht⟩, by simpa using hall⟩

/-- Settles O58: an RST leaves a buffer that holds nothing, and each byte adds itself. -/
theorem bytesNotWrittenSinceResetHaveNoValue : Obligations.BytesNotWrittenSinceResetHaveNoValue := by
  unfold Obligations.BytesNotWrittenSinceResetHaveNoValue
  intro s bs hdiv hlen
  obtain ⟨t, ht, hall⟩ := (holds_nil_of_reset s.cfgDivider s).receiveMany bs (by simpa using hlen)
  rw [List.nil_append] at hall
  refine ⟨t, (andThen_eq_next _ _ _).mpr ⟨_, (execRst_eq_next _ _).mpr ⟨hdiv, rfl⟩, ht⟩, ?_, ?_⟩
  · intro a ha
    refine (readByte_ok_iff _ _ _).mpr ⟨by omega, ?_⟩
    rw [hall.byteAt_eq, List.getD_eq_getElem _ _ ha, List.getElem?_eq_getElem ha]
  · intro a h19 ha
    exact readByte_unwritten h19 (by rw [hall.byteAt_eq, List.getElem?_eq_none ha])

/-- Settles O14: the table of R27; no byte is listed, so every read faults. -/
theorem resetStateHoldsTheTable : Obligations.ResetStateHoldsTheTable := by
  unfold Obligations.ResetStateHoldsTheTable
  refine ⟨rfl, rfl, rfl, rfl, rfl, by decide, rfl, rfl, rfl, rfl, fun a ha => ?_⟩
  exact readByte_unwritten ha (byteAt_eq_none (.inr rfl))

/-- Settles O48: the three ways a read of the buffer can end. -/
theorem absentBytesFault : Obligations.AbsentBytesFault := by
  unfold Obligations.AbsentBytesFault
  intro s a
  refine ⟨readByte_outOfRange, fun ha h => readByte_unwritten ha (byteAt_eq_none h), ?_⟩
  exact fun b ha hw hb => (readByte_ok_iff a s b).mpr ⟨ha, (byteAt_eq_some a s b).mpr ⟨hw, hb⟩⟩

/-- The ports show what the output in view says (10_state R22, R24). -/
theorem ports_of_lastOutput {s : State} {o : Output} (h : s.lastOutput = o) :
    s.ports.ok = o.ok ∧ s.ports.diag = o.isDiag ∧ s.ports.fatal = o.isFatal ∧
      s.ports.outCode = o.code ∧ s.ports.outInfo = o.info ∧ s.ports.outComputed = o.computed := by
  subst h
  exact ⟨rfl, rfl, rfl, rfl, rfl, rfl⟩

/-- Settles O49: the ports by the kind of the output shown, and by the registers. -/
theorem portsShowTheOutput : Obligations.PortsShowTheOutput := by
  unfold Obligations.PortsShowTheOutput
  intro s
  refine ⟨?last, ?noOutput, ?none, ?meas, ?diag, ?fatal, ?_⟩
  case last => intro os o h; simp [State.lastOutput, h]
  case noOutput => intro h; simp [State.lastOutput, h]
  case none => exact ports_of_lastOutput
  case meas => exact fun _ _ _ _ h => ports_of_lastOutput h
  case diag => exact fun _ _ h => ports_of_lastOutput h
  case fatal =>
    intro e info h
    obtain ⟨hok, hdiag, hfatal, hcode, hinfo, hcomputed⟩ := ports_of_lastOutput h
    refine ⟨hok, hdiag, hfatal, hinfo, hcomputed, ?_, ?_, ?_⟩ <;> rintro rfl <;> exact hcode
  -- `MODE`, `ERR` and the other registers
  exact ⟨congrArg Mode.code, congrArg Mode.code, congrArg Err.code, congrArg Err.code,
    congrArg Err.code, congrArg Err.code, congrArg Err.code, rfl, rfl, rfl, rfl, rfl⟩

end Sys2Proof.Machine
end

section
/-! PROOFS. A frame received byte by byte (20_memory R30, R37; 42_frame_validator R77, R79): what stands before its last
byte, what the last byte decides, and what a cut leaves; and that `DIV` and the port meet at RST alone (R42). -/

namespace Sys2Proof.Machine

/-! ### Runs of operations -/

theorem execAll_append (is js : List Instr) (s : State) :
    execAll (is ++ js) s = andThen (execAll is s) (execAll js) := by
  induction is generalizing s with
  | nil => rfl
  | cons i is ih =>
    simp only [List.cons_append, execAll, andThen_assoc]
    exact congrArg (andThen (exec i s)) (funext ih)

/-- A run that ends in operation `i` completes as `i` does after the rest. -/
theorem execAll_concat {is : List Instr} {i : Instr} {s u t : State} (h : execAll is s = .next u)
    (hi : exec i u = .next t) : execAll (is ++ [i]) s = .next t := by
  rw [execAll_append, h, andThen_next]
  exact (andThen_eq_next _ _ _).mpr ⟨t, hi, rfl⟩

/-! ### The payload of the bytes so far -/

theorem payload_append_of_le {bs : List Byte} (d : Byte) (h1 : 1 ≤ bs.length) (h16 : bs.length ≤ 16) :
    ((bs ++ [d]).drop 1).take 16 = (bs.drop 1).take 16 ++ [d] := by
  rw [List.drop_append_of_le_length h1, List.take_of_length_le (by simp; omega),
    List.take_of_length_le (by simp; omega)]

theorem payload_append_of_gt {bs : List Byte} (d : Byte) (h : 16 < bs.length) :
    ((bs ++ [d]).drop 1).take 16 = (bs.drop 1).take 16 := by
  rw [List.drop_append_of_le_length (by omega), List.take_append_of_le_length (by simp; omega)]

/-! ### A frame before its last byte -/

theorem ChangesOnly.mono {fs gs : List Field} {s t : State} (h : ChangesOnly fs s t) (hf : fs ⊆ gs) :
    ChangesOnly gs s t :=
  fun f hn => h f fun hm => hn (hf hm)

/-- A byte that does not complete a frame is stored, counted and folded, and gives `None`. -/
theorem exec_rxb_stored (d : Byte) {s : State} (hl : Live s) (hc : s.cnt.val < 18) :
    exec (.rxb d) s = .next (emit .none { storeAndAdvance d s with acc := accAfter d s }) := by
  obtain ⟨t, ht, -⟩ := execRxb_stores d hl hc
  cases received_of_execRxb ht hl.2 with
  | byteStored => exact ht
  | frameRejected h18 => omega
  | frameDelivered h18 => omega

/-- From the frame boundary `s`, the bytes `bs` of a frame have been received, not its last, and `t` is reached. -/
structure FrameSoFar (s : State) (bs : List Byte) (t : State) : Prop where
  cnt : t.cnt.val = bs.length
  readByte_eq : ∀ a, readByte a t = if a < bs.length then .ok (bs.getD a 0) else readByte a s
  acc : bs ≠ [] → t.acc = checksum ((bs.drop 1).take 16)
  output : t.output = s.output ++ List.replicate bs.length .none
  changes : ChangesOnly [.cnt, .acc, .output] s t

theorem frameSoFar_nil {s : State} (hc : s.cnt = 0) : FrameSoFar s [] s where
  cnt := by simp [hc]
  readByte_eq a := by simp
  acc h := absurd rfl h
  output := by simp
  changes f _ := by cases f <;> rfl

section
variable {s t : State} {bs : List Byte}

theorem FrameSoFar.live (h : FrameSoFar s bs t) (hl : Live s) : Live t :=
  ⟨(h.changes .rstSeen (by decide)).trans hl.1, (h.changes .mode (by decide)).trans hl.2⟩

theorem FrameSoFar.readByte_received (h : FrameSoFar s bs t) {a : Nat} (ha : a < bs.length) :
    readByte a t = .ok (bs.getD a 0) := by
  rw [h.readByte_eq, if_pos ha]

/-- The bytes of the frame are in the buffer after byte `d` too, which lies behind them. -/
theorem FrameSoFar.readByte_store (h : FrameSoFar s bs t) (d : Byte) (a : Nat) :
    readByte a (storeAndAdvance d t) =
      if a < (bs ++ [d]).length then .ok ((bs ++ [d]).getD a 0) else readByte a s := by
  rw [List.length_append, List.length_singleton]
  rcases Nat.lt_trichotomy a bs.length with ha | rfl | ha
  · rw [readByte_storeAndAdvance_other d t a (by rw [h.cnt]; omega), h.readByte_received ha,
      if_pos (by omega), List.getD_append _ _ _ _ ha]
  · rw [if_pos (by omega), ← h.cnt, readByte_storeAndAdvance_same, h.cnt,
      List.getD_append_right _ _ _ _ (le_refl _), Nat.sub_self]
    rfl
  · rw [readByte_storeAndAdvance_other d t a (by rw [h.cnt]; omega), h.readByte_eq,
      if_neg (by omega), if_neg (by omega)]

/-- START clears `ACC`, each payload byte is folded, and the bytes after the payload leave it (41_checksum R70). -/
theorem FrameSoFar.accAfter_eq (h : FrameSoFar s bs t) (d : Byte) :
    accAfter d t = checksum (((bs ++ [d]).drop 1).take 16) := by
  rw [accAfter, h.cnt]
  split_ifs with h0 h16
  · rw [List.eq_nil_of_length_eq_zero h0]
    rfl
  · rw [h.acc (by rintro rfl; exact h0 rfl), payload_append_of_le d (by omega) h16, checksum_append]
    simp
  · rw [h.acc (by rintro rfl; exact h0 rfl), payload_append_of_gt d (by omega)]

theorem FrameSoFar.receive (h : FrameSoFar s bs t) (hl : Live s) (hlen : bs.length < 18) (d : Byte) :
    ∃ u, exec (.rxb d) t = .next u ∧ FrameSoFar s (bs ++ [d]) u := by
  refine ⟨_, exec_rxb_stored d (h.live hl) (by rw [h.cnt]; exact hlen), ?_, ?_, fun _ => ?_, ?_, ?_⟩
  · rw [emit_cnt, storeAndAdvance_cnt, cnt_succ_val, h.cnt, List.length_append, List.length_singleton]
    omega
  · exact h.readByte_store d
  · exact h.accAfter_eq d
  · simp [h.output, List.replicate_succ']
  · refine h.changes.trans (gs := [.cnt, .acc, .output]) (fun f hf => ?_) (by decide) (by decide)
    cases f <;> simp_all [Field.same]

/-- Up to eighteen bytes from a frame boundary are received without a verdict. -/
theorem FrameSoFar.receiveMany (h : FrameSoFar s bs t) (hl : Live s) (ds : List Byte)
    (hlen : bs.length + ds.length ≤ 18) :
    ∃ u, execAll (ds.map Instr.rxb) t = .next u ∧ FrameSoFar s (bs ++ ds) u := by
  induction ds generalizing bs t with
  | nil => exact ⟨t, rfl, by simpa using h⟩
  | cons d ds ih =>
    rw [List.length_cons] at hlen
    obtain ⟨u, hu, hrec⟩ := h.receive hl (by omega) d
    obtain ⟨v, hv, hall⟩ := ih hrec (by rw [List.length_append, List.length_singleton]; omega)
    exact ⟨v, (andThen_eq_next _ _ _).mpr ⟨u, hu, hv⟩, by simpa using hall⟩

end

theorem execAll_rxb_frameSoFar {s : State} (hl : Live s) (hc : s.cnt = 0) {bs : List Byte}
    (hlen : bs.length ≤ 18) :
    ∃ t, execAll (bs.map Instr.rxb) s = .next t ∧ FrameSoFar s bs t :=
  (frameSoFar_nil hc).receiveMany hl bs (by simpa using hlen)

/-! ### A frame cut short -/

theorem exec_rxf_live {s : State} (hl : Live s) :
    exec .rxf s = .next (raise (.transportError (receivedCount s)) s) :=
  (execRxf_eq_next s _).mpr ⟨hl.1, .inl ⟨hl.2, rfl⟩⟩

/-- Settles O33: the bytes before the cut are received without a verdict, and RXF reports their number. -/
theorem cutFrameReportsTransportErrorOnly : Obligations.CutFrameReportsTransportErrorOnly := by
  unfold Obligations.CutFrameReportsTransportErrorOnly
  intro s bs hl hc hlen
  obtain ⟨u, hrun, hu⟩ := execAll_rxb_frameSoFar hl hc hlen
  refine ⟨_, execAll_concat hrun (exec_rxf_live (hu.live hl)), ?_, rfl, rfl, hu.cnt, ?_, ?_, ?_⟩
  · rw [raise_output, hu.output, Exc.report, receivedCount, hu.cnt]
  · exact hu.changes.trans (changesOnly_raise _ _) (by decide) (by decide)
  · exact fun a ha => hu.readByte_received ha
  · intro a ha
    rw [readByte_raise, hu.readByte_eq, if_neg ha]

/-! ### The verdict on the nineteen bytes -/

section
variable {c : Cfg} {start stop chk : Byte} {rawCur rawVolt : Int} {s : State}

theorem judged_of_start_ne (h0 : start ≠ c.startMarker) :
    judged c start stop chk rawCur rawVolt s = raise (.invalidStartByte start) s := if_pos h0

theorem judged_of_stop_ne (h0 : start = c.startMarker) (h18 : stop ≠ c.stopMarker) :
    judged c start stop chk rawCur rawVolt s = raise (.invalidStopByte stop) s := by
  simp [judged, h0, h18]

theorem judged_of_chk_ne (h0 : start = c.startMarker) (h18 : stop = c.stopMarker)
    (h17 : s.acc ≠ chk) :
    judged c start stop chk rawCur rawVolt s = raise (.invalidChecksum s.acc chk) s := by
  simp [judged, h0, h18, h17]

theorem judged_of_trusted (h0 : start = c.startMarker) (h18 : stop = c.stopMarker)
    (h17 : s.acc = chk) :
    judged c start stop chk rawCur rawVolt s = delivered c rawCur rawVolt chk s := by
  simp [judged, h0, h18, h17]

end

section
variable (c : Cfg) (start stop chk : Byte) (rawCur rawVolt : Int) (s : State)

theorem judged_output : (judged c start stop chk rawCur rawVolt s).output =
    s.output ++ [(judged c start stop chk rawCur rawVolt s).lastOutput] := by
  unfold judged delivered
  split_ifs <;> simp [lastOutput_raise, lastOutput_emit]

@[simp] theorem judged_acc : (judged c start stop chk rawCur rawVolt s).acc = s.acc := by
  unfold judged
  split_ifs <;> rfl

theorem changesOnly_judged :
    ChangesOnly [.mode, .err, .mValid, .mCur, .mVolt, .mChk, .output] s
      (judged c start stop chk rawCur rawVolt s) := by
  unfold judged
  split_ifs
  · exact (changesOnly_raise _ _).mono (by decide)
  · exact (changesOnly_raise _ _).mono (by decide)
  · exact (changesOnly_raise _ _).mono (by decide)
  · exact (changesOnly_delivered _ _ _ _ _).mono (by decide)

end

/-- The raw value of the two-byte field at offset `a` of the frame `bs` (30_encoding R50). -/
def rawField (bs : List Byte) (a : Nat) : Nat := (bs.getD a 0).toNat * 256 + (bs.getD (a + 1) 0).toNat

theorem rawField_lt (bs : List Byte) (a : Nat) : rawField bs a < 65536 := by
  have := (bs.getD a 0).isLt
  have := (bs.getD (a + 1) 0).isLt
  unfold rawField
  omega

theorem curNum_rawField_latched (bs : List Byte) (a : Nat) :
    (narrow Config.cfg (curNum Config.cfg (rawField bs a))).toInt =
      curNum Config.cfg ((bs.getD a 0).toNat * 256 + (bs.getD (a + 1) 0).toNat) := by
  obtain ⟨hlow, hhigh⟩ := curNum_range (rawField_lt bs a)
  rw [narrow_toInt _ (by omega) hhigh]
  simp [rawField]

theorem voltNum_rawField_latched (bs : List Byte) (a : Nat) :
    (narrow Config.cfg (voltNum Config.cfg (rawField bs a))).toInt =
      voltNum Config.cfg ((bs.getD a 0).toNat * 256 + (bs.getD (a + 1) 0).toNat) := by
  obtain ⟨hlow, hhigh⟩ := voltNum_range (rawField_lt bs a)
  rw [narrow_toInt _ hlow hhigh]
  simp [rawField]

/-- What the nineteen bytes `bs` leave, of which `u` has stored all: the verdict on them as one read (R77). -/
def judgedFrame (bs : List Byte) (u : State) : State :=
  judged Config.cfg (bs.getD 0 0) (bs.getD 18 0) (bs.getD 17 0) (rawField bs 2) (rawField bs 4) u

/-- The last byte of a frame brings the verdict on its nineteen bytes. -/
theorem FrameSoFar.exec_last {s u : State} {bs : List Byte} (h : FrameSoFar s bs u) (hl : Live s)
    (hlen : bs.length = 18) (d : Byte) :
    exec (.rxb d) u = .next (judgedFrame (bs ++ [d]) (storeAndAdvance d u)) := by
  have hc : u.cnt.val = 18 := h.cnt.trans hlen
  have byte : ∀ a < 18, readByte a u = .ok ((bs ++ [d]).getD a 0) := fun a ha => by
    rw [h.readByte_received (by omega), List.getD_append _ _ _ _ (by omega)]
  have hlast : (bs ++ [d]).getD 18 0 = d := by simp [List.getD_eq_getElem?_getD, ← hlen]
  have hverdict := verdict_storeAndAdvance_eq_judged (c := Config.cfg) d rfl rfl rfl rfl hc
    (byte 0 (by decide)) (byte 17 (by decide)) (byte 2 (by decide)) (byte 3 (by decide))
    (byte 4 (by decide)) (byte 5 (by decide))
  unfold judgedFrame
  rw [hlast]
  exact (execRxb_eq_next d u _).mpr
    ⟨(h.live hl).1, .inr ⟨(h.live hl).2, .inr (.inr (.inr ⟨hc, hverdict⟩))⟩⟩

/-- Nineteen bytes from a frame boundary: all of them are stored, and then they are judged. -/
theorem execAll_rxb_nineteen {s : State} (hl : Live s) (hc : s.cnt = 0) {bs : List Byte}
    (hlen : bs.length = 19) :
    ∃ u, execAll (bs.map Instr.rxb) s = .next (judgedFrame bs u) ∧ u.cnt = 0 ∧
      (∀ a < 19, readByte a u = .ok (bs.getD a 0)) ∧
      u.acc = checksum ((bs.drop 1).take 16) ∧
      u.output = s.output ++ List.replicate 18 .none ∧
      ChangesOnly [.cnt, .acc, .output] s u := by
  rcases List.eq_nil_or_concat bs with rfl | ⟨ds, d, rfl⟩
  · cases hlen
  rw [List.concat_eq_append] at hlen ⊢
  have h18 : ds.length = 18 := by simpa using hlen
  obtain ⟨v, hrun, hv⟩ := execAll_rxb_frameSoFar hl hc (Nat.le_of_eq h18)
  refine ⟨storeAndAdvance d v, ?_, ?_, fun a ha => ?_, ?_, ?_, ?_⟩
  · rw [List.map_append]
    exact execAll_concat hrun (hv.exec_last hl h18 d)
  · exact Fin.ext (by rw [storeAndAdvance_cnt, cnt_succ_val, hv.cnt, h18]; rfl)
  · rw [hv.readByte_store d, if_pos (by omega)]
  · rw [storeAndAdvance_acc, payload_append_of_gt d (by omega), hv.acc (by rintro rfl; cases h18)]
  · rw [storeAndAdvance_output, hv.output, h18]
  · exact hv.changes.trans (changesOnly_storeAndAdvance d v) (by decide) (by decide)

/-- Settles O28: the nineteen bytes are stored, and `judgedFrame` is the verdict on them, check by check. -/
theorem nineteenBytesAreJudgedAsOneRead : Obligations.NineteenBytesAreJudgedAsOneRead := by
  unfold Obligations.NineteenBytesAreJudgedAsOneRead
  intro s bs hl hc hlen
  obtain ⟨u, hrun, hcnt, hread, hacc, hout, hchanges⟩ := execAll_rxb_nineteen hl hc hlen
  have hmode : u.mode = .running := (hchanges .mode (by decide)).trans hl.2
  refine ⟨_, (judgedFrame bs u).lastOutput, hrun, ?_, fun a ha => ?_, ?_, ?_, ?_, ?_⟩
  · rw [judgedFrame, judged_cnt, hcnt]
  · rw [judgedFrame, readByte_judged, hread a ha]
  · rw [judgedFrame, judged_acc, hacc]
  · rw [← hout]
    exact judged_output ..
  · exact hchanges.trans (changesOnly_judged _ _ _ _ _ _ _) (by decide) (by decide)
  unfold judgedFrame
  split_ifs with h0 h18 hchk
  · -- the start marker is wrong
    rw [judged_of_start_ne h0]
    exact ⟨lastOutput_raise _ _, rfl, rfl,
      hchanges.trans (changesOnly_raise _ _) (by decide) (by decide)⟩
  · -- the stop marker is wrong
    rw [judged_of_stop_ne (not_ne_iff.mp h0) h18]
    exact ⟨lastOutput_raise _ _, rfl, rfl,
      hchanges.trans (changesOnly_raise _ _) (by decide) (by decide)⟩
  · -- the checksum is wrong
    rw [← hacc] at hchk ⊢
    rw [judged_of_chk_ne (not_ne_iff.mp h0) (not_ne_iff.mp h18) hchk]
    exact ⟨lastOutput_raise _ _, hmode, rfl,
      hchanges.trans (changesOnly_raise_recoverable _ _ rfl) (by decide) (by decide)⟩
  · -- the frame is trusted
    rw [← hacc] at hchk
    rw [judged_of_trusted (not_ne_iff.mp h0) (not_ne_iff.mp h18) (not_ne_iff.mp hchk)]
    have hdiv : u.div = s.div := hchanges .div (by decide)
    refine ⟨?_, hmode, rfl, rfl, rfl, curNum_rawField_latched bs 2, voltNum_rawField_latched bs 4⟩
    rw [← hdiv]
    exact lastOutput_emit _ _

/-! ### The port `cfg_divider` -/

/-- The state with the level `n` on the port. -/
def withPort (n : U16) (s : State) : State := { s with cfgDivider := n }

/-- The outcome with the level `n` on the port of the state it gives, if it gives one. -/
def portAfter (n : U16) (r : Result) : Result := andThen r fun t => .next (withPort n t)

section
variable (n : U16) (s : State)

variable {n s} {r r' : Result}

theorem afterReset_withPort (h : r' = portAfter n r) :
    afterReset (withPort n s) r' = portAfter n (afterReset s r) := by
  cases hr : s.rstSeen with
  | true => rw [afterReset_seen s r hr, afterReset_seen (withPort n s) _ hr, h]
  | false =>
    rw [afterReset_unseen s r hr, afterReset_unseen (withPort n s) _ hr]
    rfl

theorem whenRunning_withPort (h : r' = portAfter n r) :
    whenRunning (withPort n s) r' = portAfter n (whenRunning s r) := by
  cases hm : s.mode with
  | running => rw [whenRunning_running s r hm, whenRunning_running (withPort n s) _ hm, h]
  | terminated =>
    rw [whenRunning_terminated s r hm, whenRunning_terminated (withPort n s) _ hm]
    rfl

/-- A positional form does not look at the port where its body does not. -/
theorem onForm_withPort {c : Cfg} {f : Form} (h : r' = portAfter n r) :
    onForm c f (withPort n s) r' = portAfter n (onForm c f s r) := by
  refine afterReset_withPort (whenRunning_withPort ?_)
  change (if formAt c s.cnt = f then r' else _) = _
  rw [h]
  split <;> rfl

variable (n s)

theorem withRead_portAfter {α : Type} (v : Except Fault α) (k : α → Result) :
    withRead v (fun x => portAfter n (k x)) = portAfter n (withRead v k) := by
  cases v <;> rfl

theorem memRead_withPort (c : Cfg) (a k : Nat) : memRead c a k (withPort n s) = memRead c a k s :=
  memRead_congr fun _ _ => rfl

theorem deliver_withPort (c : Cfg) : deliver c (withPort n s) = portAfter n (deliver c s) := by
  unfold deliver curOperand voltOperand
  simp only [← withRead_portAfter, memRead_withPort]
  rfl

/-- The verdict reads the buffer, `ACC` and `DIV`, never the port. -/
theorem verdict_withPort (c : Cfg) : verdict c (withPort n s) = portAfter n (verdict c s) := by
  unfold verdict
  simp only [← withRead_portAfter, deliver_withPort, apply_ite (portAfter n)]
  rfl

theorem execRxbStop_withPort (d : Byte) :
    execRxbStop d (withPort n s) = portAfter n (execRxbStop d s) :=
  onForm_withPort (verdict_withPort n (storeAndAdvance d s) Config.cfg)

theorem execRxb_withPort (d : Byte) : execRxb d (withPort n s) = portAfter n (execRxb d s) := by
  have hform : formAt Config.cfg (withPort n s).cnt = formAt Config.cfg s.cnt := rfl
  unfold execRxb execRxbUnder
  rw [hform]
  cases formAt Config.cfg s.cnt with
  | start => exact onForm_withPort rfl
  | pay => exact onForm_withPort rfl
  | chk => exact onForm_withPort rfl
  | stop => exact execRxbStop_withPort n s d

theorem receiveAll_withPort (bs : List Byte) :
    receiveAll Config.cfg bs (withPort n s) = portAfter n (receiveAll Config.cfg bs s) := by
  induction bs generalizing s with
  | nil => rfl
  | cons b bs ih =>
    rw [receiveAll_cons, receiveAll_cons, execRxb_withPort, portAfter, portAfter, andThen_assoc,
      andThen_assoc]
    exact congrArg (andThen (execRxb b s)) (funext ih)

/-- Every operation but RST runs the same with another level on the port, and leaves that level there. -/
theorem exec_withPort {i : Instr} (hi : i ≠ .rst) :
    exec i (withPort n s) = portAfter n (exec i s) := by
  cases i with
  | rst => exact absurd rfl hi
  | rxf => exact afterReset_withPort (whenRunning_withPort rfl)
  | idle => exact afterReset_withPort rfl
  | init => rfl
  | frame p c => exact receiveAll_withPort n s _
  | rxb d => exact execRxb_withPort n s d
  | rxbStart d => exact onForm_withPort rfl
  | rxbPay d => exact onForm_withPort rfl
  | rxbChk d => exact onForm_withPort rfl
  | rxbStop d => exact execRxbStop_withPort n s d

end

/-- No operation but RST writes `DIV` (10_state R18). -/
theorem exec_div {i : Instr} {s t : State} (hi : i ≠ .rst) (h : exec i s = .next t) : t.div = s.div :=
  exec_lift (R := fun s t => t.div = s.div) (fun _ => rfl) (fun _ _ _ h h' => h'.trans h)
    (fun d _ _ hb => (Effect.latchesFollow (i := .rxb d) nofun (effect_of_execRxb hb)).1)
    (fun hf => ((effect_of_exec hf h).latchesFollow hi).1) h

/-- Settles O40: RST samples the port into `DIV`; no other operation writes `DIV` or reads the port. -/
theorem dividerIsSampledAtResetOnly : Obligations.DividerIsSampledAtResetOnly := by
  unfold Obligations.DividerIsSampledAtResetOnly
  refine ⟨fun s t h => ?_, fun i s t n hi h => ⟨exec_div hi h, ?_⟩⟩
  · obtain ⟨-, rfl⟩ := (execRst_eq_next s t).mp h
    rfl
  · have hport := exec_withPort n s hi
    rwa [h] at hport

end Sys2Proof.Machine
end

section
/-! PROOFS. Encodings (30_encoding R44 to R50): what the decoder reads from the words of each format, that it undoes the
encoder, and that the masks and matches of the opcode table say the same as the decoder. -/

namespace Sys2Proof

/-! ### Words put together from parts, and their masks -/

theorem append_eq_append_iff {m n : Nat} {x x' : BitVec m} {y y' : BitVec n} :
    x ++ y = x' ++ y' ↔ x = x' ∧ y = y' := by
  constructor
  · intro h
    have hx := congrArg (BitVec.extractLsb' n m) h
    have hy := congrArg (BitVec.extractLsb' 0 n) h
    rw [BitVec.extractLsb'_append_eq_left, BitVec.extractLsb'_append_eq_left] at hx
    rw [BitVec.extractLsb'_append_eq_right, BitVec.extractLsb'_append_eq_right] at hy
    exact ⟨hx, hy⟩
  · rintro ⟨rfl, rfl⟩
    rfl

/-- A word of two parts matches a pattern of two parts exactly when each part does. -/
theorem append_matches_iff {m n : Nat} {x mask x' : BitVec m} {y mask' y' : BitVec n} :
    (x ++ y) &&& (mask ++ mask') = x' ++ y' ↔ x &&& mask = x' ∧ y &&& mask' = y' := by
  rw [BitVec.and_append, append_eq_append_iff]

/-! ### Event words (R44, R45) -/

/-- The event word with the control bits `rst`, `rx_fail`, `rx_valid` over the byte `rx_data` (R44). -/
def eventWord (ctrl : BitVec 3) (d : Byte) : EventWord := ctrl ++ d

theorem exists_eq_eventWord (w : EventWord) : ∃ ctrl d, w = eventWord ctrl d :=
  have h := BitVec.extractLsb'_append_extractLsb'_eq_extractLsb' (x := w) (len₂ := 3)
    (show 8 = 0 + 8 from rfl)
  ⟨w.extractLsb' 8 3, w.extractLsb' 0 8, (h.trans BitVec.extractLsb'_eq_self).symm⟩

section
variable (ctrl : BitVec 3) (d : Byte)

theorem getLsbD_eventWord (i : Nat) : (eventWord ctrl d).getLsbD (8 + i) = ctrl.getLsbD i :=
  BitVec.getLsbD_append.trans (by simp)

theorem setWidth_eventWord : (eventWord ctrl d).setWidth 8 = d := BitVec.setWidth_append_eq_right

/-- The decoder tests the control bits by priority and reads the byte for RXB alone. -/
theorem decodeEvent_eventWord :
    decodeEvent (eventWord ctrl d) =
      if ctrl.getLsbD 2 then .rst
      else if ctrl.getLsbD 1 then .rxf
      else if ctrl.getLsbD 0 then .rxb d
      else .idle := by
  have bit := getLsbD_eventWord ctrl d
  have hbyte : (eventWord ctrl d).extractLsb' 0 8 = d := BitVec.extractLsb'_append_eq_right
  rw [decodeEvent, hbyte, bit 2, bit 1, bit 0]

/-- No pattern of the opcode table fixes a bit of `rx_data`. -/
theorem eventWord_matches_iff (mask m : BitVec 3) :
    eventWord ctrl d &&& eventWord mask 0 = eventWord m 0 ↔ ctrl &&& mask = m := by
  refine append_matches_iff.trans ?_
  rw [BitVec.ofNat_eq_ofNat, BitVec.and_zero]
  exact and_iff_left rfl

theorem matches_rst_iff :
    eventWord ctrl d &&& 0x400 = 0x400 ↔ ctrl.getLsbD 2 = true := by
  refine (eventWord_matches_iff ctrl d 0b100 0b100).trans ?_
  revert ctrl
  decide

theorem matches_rxf_iff :
    eventWord ctrl d &&& 0x600 = 0x200 ↔ ctrl.getLsbD 2 = false ∧ ctrl.getLsbD 1 = true := by
  refine (eventWord_matches_iff ctrl d 0b110 0b010).trans ?_
  revert ctrl
  decide

theorem matches_rxb_iff :
    eventWord ctrl d &&& 0x700 = 0x100 ↔
      ctrl.getLsbD 2 = false ∧ ctrl.getLsbD 1 = false ∧ ctrl.getLsbD 0 = true := by
  refine (eventWord_matches_iff ctrl d 0b111 0b001).trans ?_
  revert ctrl
  decide

theorem matches_idle_iff :
    eventWord ctrl d &&& 0x700 = 0x000 ↔
      ctrl.getLsbD 2 = false ∧ ctrl.getLsbD 1 = false ∧ ctrl.getLsbD 0 = false := by
  refine (eventWord_matches_iff ctrl d 0b111 0b000).trans ?_
  revert ctrl
  decide

end

/-- The event word that R55 writes for a byte has `rx_valid` alone. -/
theorem byteWord_eq (d : Byte) : 0x100 ||| d.setWidth 11 = eventWord 0b001 d := by
  rw [eventWord, BitVec.append_def]
  rfl

theorem decode_byteWord (cfg : Cfg) (d : Byte) :
    decode cfg (.ev (0x100 ||| d.setWidth 11)) = .ok (.rxb d) := by
  rw [byteWord_eq]
  exact congrArg Except.ok (decodeEvent_eventWord 0b001 d)

/-! ### Frame words (R46, R47) -/

/-- The byte at offset `i` holds the bits of the word from `8 * (18 - i)` on. -/
theorem getLsbD_frameByte (w : FrameWord) {i j : Nat} (hj : j < 8) :
    (frameByte w i).getLsbD j = w.getLsbD (8 * (18 - i) + j) := by
  simp [frameByte, hj]

/-- A frame word is determined by its nineteen bytes. -/
theorem frameWord_ext {v w : FrameWord} (h : ∀ i < 19, frameByte v i = frameByte w i) : v = w := by
  refine BitVec.eq_of_getLsbD_eq fun b hb => ?_
  have hbyte := congrArg (·.getLsbD (b % 8)) (h (18 - b / 8) (by omega))
  simp only [getLsbD_frameByte _ (Nat.mod_lt b (by decide : 0 < 8))] at hbyte
  rwa [show 8 * (18 - (18 - b / 8)) + b % 8 = b by omega] at hbyte

/-- The payload operand of a frame word: the bytes at offsets 1 to 16. -/
def framePayload (w : FrameWord) : List Byte := (List.range 16).map fun k => frameByte w (k + 1)

theorem framePayload_length (w : FrameWord) : (framePayload w).length = 16 := by
  simp [framePayload]

theorem decodeFrame_of_markers {cfg : Cfg} {w : FrameWord} (h0 : frameByte w 0 = cfg.startMarker)
    (h18 : frameByte w 18 = cfg.stopMarker) :
    decodeFrame cfg w = .ok (.frame (framePayload w) (frameByte w 17)) :=
  if_pos ⟨h0, h18⟩

theorem decodeFrame_of_not_markers {cfg : Cfg} {w : FrameWord}
    (h : ¬(frameByte w 0 = cfg.startMarker ∧ frameByte w 18 = cfg.stopMarker)) :
    decodeFrame cfg w = .error .notAFrame :=
  if_neg h

/-! ### The bytes of a frame by offset (R46) -/

section
variable (cfg : Cfg) {p : List Byte} (c : Byte)

theorem frameBytes_getD_start : (frameBytes cfg p c).getD 0 0 = cfg.startMarker := rfl

theorem frameBytes_getD_payload {k : Nat} (hk : k < p.length) :
    (frameBytes cfg p c).getD (k + 1) 0 = p.getD k 0 := by
  rw [frameBytes, List.cons_append, List.getD_cons_succ, List.getD_append _ _ _ _ hk]

theorem frameBytes_getD_chk (hp : p.length = 16) : (frameBytes cfg p c).getD 17 0 = c := by
  rw [frameBytes, List.cons_append, List.getD_cons_succ,
    List.getD_append_right _ _ _ _ (Nat.le_of_eq hp), hp]
  rfl

theorem frameBytes_getD_stop (hp : p.length = 16) :
    (frameBytes cfg p c).getD 18 0 = cfg.stopMarker := by
  rw [frameBytes, List.cons_append, List.getD_cons_succ,
    List.getD_append_right _ _ _ _ (by omega), hp]
  rfl

theorem frameByte_encoded (hp : p.length = 16) {i : Nat} (hi : i < 19) :
    frameByte (packBytes 152 (frameBytes cfg p c)) i = (frameBytes cfg p c).getD i 0 :=
  frameByte_packFrame _ (by rw [frameBytes_length, hp]) i hi

theorem framePayload_encoded (hp : p.length = 16) :
    framePayload (packBytes 152 (frameBytes cfg p c)) = p := by
  refine List.ext_getElem (by rw [framePayload_length, hp]) fun k hk hk' => ?_
  simp only [framePayload, List.getElem_map, List.getElem_range]
  rw [frameByte_encoded cfg c hp (by omega), frameBytes_getD_payload cfg c hk',
    List.getD_eq_getElem _ _ hk']

/-- The decoder gives back the operands of a frame of sixteen payload bytes. -/
theorem decodeFrame_encoded (hp : p.length = 16) :
    decodeFrame cfg (packBytes 152 (frameBytes cfg p c)) = .ok (.frame p c) := by
  have byte := fun i (hi : i < 19) => frameByte_encoded cfg c hp hi
  rw [decodeFrame_of_markers (byte 0 (by decide))
    ((byte 18 (by decide)).trans (frameBytes_getD_stop cfg c hp)), framePayload_encoded cfg c hp,
    byte 17 (by decide), frameBytes_getD_chk cfg c hp]

end

/-- A frame word with the right markers is the encoding of its operands. -/
theorem packBytes_frameBytes_of_markers {cfg : Cfg} {w : FrameWord}
    (h0 : frameByte w 0 = cfg.startMarker) (h18 : frameByte w 18 = cfg.stopMarker) :
    packBytes 152 (frameBytes cfg (framePayload w) (frameByte w 17)) = w := by
  have hp := framePayload_length w
  refine frameWord_ext fun i hi => ?_
  rw [frameByte_encoded cfg _ hp hi]
  rcases (show i = 0 ∨ (1 ≤ i ∧ i ≤ 16) ∨ i = 17 ∨ i = 18 by omega) with rfl | ⟨h1, h16⟩ | rfl | rfl
  · exact h0.symm
  · obtain ⟨k, rfl⟩ := Nat.exists_eq_add_of_le' h1
    have hk : k < (framePayload w).length := by omega
    rw [frameBytes_getD_payload cfg _ hk, List.getD_eq_getElem _ _ hk]
    simp [framePayload]
  · exact frameBytes_getD_chk cfg _ hp
  · exact (frameBytes_getD_stop cfg _ hp).trans h18.symm

/-- The pattern of R47 fixes the two bytes at the ends of a word and leaves the 136 bits between them free. -/
theorem append_matches_frame_iff (first last : Byte) (between : BitVec 136) :
    (first ++ (between ++ last) : FrameWord) &&& 0xFF0000000000000000000000000000000000FF =
        0xFA0000000000000000000000000000000000F8 ↔ first = 0xFA ∧ last = 0xF8 := by
  refine (append_matches_iff (mask := 0xFF#8) (x' := 0xFA#8) (mask' := 0#136 ++ 0xFF#8)
    (y' := 0#136 ++ 0xF8#8)).trans ?_
  have hall : ∀ b : Byte, b &&& 0xFF#8 = b := fun _ => BitVec.and_allOnes
  rw [append_matches_iff, hall, hall, BitVec.and_zero]
  exact and_congr_right fun _ => and_iff_right rfl

theorem frameWord_matches_iff (w : FrameWord) :
    w &&& 0xFF0000000000000000000000000000000000FF = 0xFA0000000000000000000000000000000000F8 ↔
      w.extractLsb' 144 8 = (0xFA : Byte) ∧ w.extractLsb' 0 8 = (0xF8 : Byte) := by
  have htail : w.extractLsb' 8 136 ++ w.extractLsb' 0 8 = w.extractLsb' 0 144 :=
    BitVec.extractLsb'_append_extractLsb'_eq_extractLsb' rfl
  have hw : w.extractLsb' 144 8 ++ (w.extractLsb' 8 136 ++ w.extractLsb' 0 8) = w := by
    rw [htail]
    exact (BitVec.extractLsb'_append_extractLsb'_eq_extractLsb' rfl).trans BitVec.extractLsb'_eq_self
  have hiff := append_matches_frame_iff (w.extractLsb' 144 8) (w.extractLsb' 0 8) (w.extractLsb' 8 136)
  rwa [hw] at hiff

/-! ### The initialisation sequence (R48) -/

theorem packBytes_initSeq : packBytes 80 Config.initSeq = 0xFA0500000000000005F8 := by decide

theorem decodeInit_eq_ok_iff (w : InitWord) (i : Instr) :
    decodeInit w = .ok i ↔ w = 0xFA0500000000000005F8 ∧ i = .init := by
  rw [decodeInit, packBytes_initSeq]
  split_ifs with h
  · simp only [h, true_and, Except.ok.injEq, eq_comm]
  · simp only [h, false_and]

/-! ### What the decoder can give -/

/-- The operation is none of the four positional forms of RXB (R57). -/
def NoForm (i : Instr) : Prop :=
  ∀ d, i ≠ .rxbStart d ∧ i ≠ .rxbPay d ∧ i ≠ .rxbChk d ∧ i ≠ .rxbStop d

/-- What the decoder may give: well formed, and no positional form. -/
def IsDecoded (i : Instr) : Prop := i.wellFormed = true ∧ NoForm i

theorem decodeEvent_isDecoded (w : EventWord) : IsDecoded (decodeEvent w) := by
  unfold decodeEvent
  split_ifs <;> exact ⟨rfl, fun _ => ⟨nofun, nofun, nofun, nofun⟩⟩

theorem decodeFrame_isDecoded {cfg : Cfg} {w : FrameWord} {i : Instr}
    (h : decodeFrame cfg w = .ok i) : IsDecoded i := by
  by_cases hm : frameByte w 0 = cfg.startMarker ∧ frameByte w 18 = cfg.stopMarker
  · obtain ⟨h0, h18⟩ := hm
    rw [decodeFrame_of_markers h0 h18] at h
    cases h
    exact ⟨beq_iff_eq.mpr (framePayload_length w), fun _ => ⟨nofun, nofun, nofun, nofun⟩⟩
  · rw [decodeFrame_of_not_markers hm] at h
    cases h

theorem decode_isDecoded {cfg : Cfg} {x : Wire} {i : Instr} (h : decode cfg x = .ok i) :
    IsDecoded i := by
  cases x with
  | ev w => cases h; exact decodeEvent_isDecoded w
  | fr19 w => exact decodeFrame_isDecoded h
  | tx10 w =>
    obtain ⟨-, rfl⟩ := (decodeInit_eq_ok_iff w i).mp h
    exact ⟨rfl, fun _ => ⟨nofun, nofun, nofun, nofun⟩⟩
  | other n w => cases h

/-- An operation's own words decode to it, or to RXB with the same byte for a positional form (R57). -/
theorem decode_encode (cfg : Cfg) {i : Instr} (hi : i.wellFormed = true) :
    decode cfg (encode cfg i) = .ok i.onWire := by
  cases i with
  | rst => rfl
  | rxf => rfl
  | idle => rfl
  | init => exact (decodeInit_eq_ok_iff _ _).mpr ⟨packBytes_initSeq, rfl⟩
  | frame p c => exact decodeFrame_encoded cfg c (beq_iff_eq.mp hi)
  | rxb d => exact decode_byteWord cfg d
  | rxbStart d => exact decode_byteWord cfg d
  | rxbPay d => exact decode_byteWord cfg d
  | rxbChk d => exact decode_byteWord cfg d
  | rxbStop d => exact decode_byteWord cfg d

theorem NoForm.onWire_eq {i : Instr} (h : NoForm i) : i.onWire = i := by
  cases i with
  | rxbStart d => obtain ⟨hstart, -, -, -⟩ := h d; exact absurd rfl hstart
  | rxbPay d => obtain ⟨-, hpay, -, -⟩ := h d; exact absurd rfl hpay
  | rxbChk d => obtain ⟨-, -, hchk, -⟩ := h d; exact absurd rfl hchk
  | rxbStop d => obtain ⟨-, -, -, hstop⟩ := h d; exact absurd rfl hstop
  | rst => rfl
  | rxf => rfl
  | rxb d => rfl
  | idle => rfl
  | frame p c => rfl
  | init => rfl

/-! ### The obligations -/

/-- Settles O1: `decode_encode`, in which only the positional forms do not come back as themselves. -/
theorem decodeInvertsEncode : Obligations.DecodeInvertsEncode := by
  unfold Obligations.DecodeInvertsEncode
  refine ⟨fun i hi hform => ?_, fun d => ⟨?_, ?_, ?_, ?_⟩⟩
  · rw [decode_encode _ hi, NoForm.onWire_eq hform]
  · exact decode_encode Config.cfg (i := .rxbStart d) rfl
  · exact decode_encode Config.cfg (i := .rxbPay d) rfl
  · exact decode_encode Config.cfg (i := .rxbChk d) rfl
  · exact decode_encode Config.cfg (i := .rxbStop d) rfl

/-- Settles O3: the pattern is the two markers, on which the decoder decides. -/
theorem frameWordsDecodeByThePattern : Obligations.FrameWordsDecodeByThePattern := by
  unfold Obligations.FrameWordsDecodeByThePattern
  intro w
  have hpattern := frameWord_matches_iff w
  refine ⟨hpattern, fun h => ?_, fun h => ?_⟩
  · obtain ⟨h0, h18⟩ := hpattern.mp h
    exact ⟨_, _, decodeFrame_of_markers h0 h18, framePayload_length w,
      congrArg Wire.fr19 (packBytes_frameBytes_of_markers h0 h18)⟩
  · exact decodeFrame_of_not_markers fun hm => h (hpattern.mpr hm)

/-- Settles O2: each pattern of the table is a condition on the control bits, and the decoder tests these. -/
theorem eventWordsSelectExactlyOneOperation : Obligations.EventWordsSelectExactlyOneOperation := by
  unfold Obligations.EventWordsSelectExactlyOneOperation
  intro w
  obtain ⟨ctrl, d, rfl⟩ := exists_eq_eventWord w
  have hdecode : decode Config.cfg (.ev (eventWord ctrl d)) = .ok (decodeEvent (eventWord ctrl d)) := rfl
  rw [hdecode, decodeEvent_eventWord, setWidth_eventWord]
  simp only [matches_rst_iff, matches_rxf_iff, matches_rxb_iff, matches_idle_iff]
  cases ctrl.getLsbD 2 with
  | true => simp
  | false =>
    cases ctrl.getLsbD 1 with
    | true => simp
    | false => cases ctrl.getLsbD 0 <;> simp

/-- Settles O4: `decodeInit_eq_ok_iff`. -/
theorem initWordIsTheOneConstant : Obligations.InitWordIsTheOneConstant := by
  unfold Obligations.InitWordIsTheOneConstant
  exact fun w => (decodeInit_eq_ok_iff w .init).trans (and_iff_left rfl)

/-- Settles O5: format by format. -/
theorem decodedOperationsAreWellFormed : Obligations.DecodedOperationsAreWellFormed := by
  unfold Obligations.DecodedOperationsAreWellFormed
  exact fun _ _ h => decode_isDecoded h

/-- Settles O6: each word is split into its control bits and its byte. -/
theorem writtenOutEventWordsDecode : Obligations.WrittenOutEventWordsDecode := by
  unfold Obligations.WrittenOutEventWordsDecode
  exact ⟨congrArg Except.ok (decodeEvent_eventWord 0b000 0x00),
    congrArg Except.ok (decodeEvent_eventWord 0b001 0xFA),
    congrArg Except.ok (decodeEvent_eventWord 0b011 0xF8),
    congrArg Except.ok (decodeEvent_eventWord 0b101 0xAA)⟩

end Sys2Proof
end

section
/-! PROOFS. What the two wire formats do (30_encoding R46, R48, R56): FRAME byte by byte, and with its own checksum at a
frame boundary, where only the field bytes reach the numerators (R52); and how a field is assembled (R50). -/

namespace Sys2Proof.Machine

/-! ### A frame as its received bytes (R56) -/

/-- Receiving bytes is running RXB on each of them. -/
theorem receiveAll_eq_execAll (bs : List Byte) (s : State) :
    receiveAll Config.cfg bs s = execAll (bs.map Instr.rxb) s := by
  induction bs generalizing s with
  | nil => rfl
  | cons b bs ih =>
    rw [receiveAll_cons]
    exact congrArg (andThen (execRxb b s)) (funext ih)

theorem exec_frame_eq (p : List Byte) (c : Byte) (s : State) :
    exec (.frame p c) s = execAll ((frameBytes Config.cfg p c).map Instr.rxb) s :=
  receiveAll_eq_execAll _ s

/-! ### A frame with its own checksum at a frame boundary (R84) -/

/-- The checksum of a frame is taken over its payload, the bytes at offsets 1 to 16. -/
theorem payload_frameBytes (cfg : Cfg) {p : List Byte} (c : Byte) (hp : p.length = 16) :
    ((frameBytes cfg p c).drop 1).take 16 = p := by
  simp [frameBytes, ← hp]

/-- A field of a frame is a field of its payload, one offset lower. -/
theorem rawField_frameBytes (cfg : Cfg) {p : List Byte} (c : Byte) {k : Nat} (hk : k + 1 < p.length) :
    rawField (frameBytes cfg p c) (k + 1) = rawField p k := by
  unfold rawField
  rw [frameBytes_getD_payload cfg c hk, frameBytes_getD_payload cfg c (Nat.lt_of_succ_lt hk)]

/-- A frame with its own checksum is delivered with the numerators of its two fields. -/
theorem exec_goodFrame {s : State} {p : List Byte} (hl : Live s) (hc : s.cnt = 0) (hp : p.length = 16) :
    ∃ t, exec (goodFrame p) s = .next t ∧
      t.lastOutput = .meas (narrow Config.cfg (curNum Config.cfg (rawField p 1)))
        (narrow Config.cfg (voltNum Config.cfg (rawField p 3))) (checksum p) s.div := by
  have hlen : (frameBytes Config.cfg p (checksum p)).length = 19 := by rw [frameBytes_length, hp]
  obtain ⟨u, hrun, -, -, hacc, -, hchanges⟩ := execAll_rxb_nineteen hl hc hlen
  rw [payload_frameBytes _ _ hp] at hacc
  rw [judgedFrame, frameBytes_getD_start, frameBytes_getD_stop _ _ hp, frameBytes_getD_chk _ _ hp,
    judged_of_trusted rfl rfl hacc, rawField_frameBytes _ _ (k := 1) (by omega),
    rawField_frameBytes _ _ (k := 3) (by omega)] at hrun
  have hdiv : u.div = s.div := hchanges .div (by decide)
  refine ⟨_, (exec_frame_eq p (checksum p) s).trans hrun, ?_⟩
  rw [← hdiv]
  exact lastOutput_emit _ _

/-! ### INIT (R48, R128) and the fields (R50) -/

theorem exec_init (s : State) : exec .init s = .next { s with sent := s.sent ++ Config.initSeq } := rfl

/-- Two bytes side by side, the first one high (R50). -/
theorem toNat_byte_append (b1 b2 : Byte) : (b1 ++ b2).toNat = b1.toNat * 256 + b2.toNat := by
  rw [BitVec.toNat_append, ← Nat.shiftLeft_add_eq_or_of_lt b2.isLt, Nat.shiftLeft_eq]

/-! ### The obligations -/

/-- Settles O32: both frames are delivered, and their fields are the same. -/
theorem reservedBytesNeverReachTheNumerators : Obligations.ReservedBytesNeverReachTheNumerators := by
  unfold Obligations.ReservedBytesNeverReachTheNumerators
  intro s p q hl hc hp hq hfields
  obtain ⟨t, ht, hmeas⟩ := exec_goodFrame hl hc hp
  obtain ⟨u, hu, hmeas'⟩ := exec_goodFrame hl hc hq
  have hfield : ∀ k, 1 ≤ k → k ≤ 3 → rawField q k = rawField p k := fun k h1 h3 => by
    rw [rawField, rawField, hfields k h1 (by omega), hfields (k + 1) (by omega) (by omega)]
  rw [hfield 1 (by decide) (by decide), hfield 3 (by decide) (by decide)] at hmeas'
  exact ⟨t, u, _, _, ht, hu, hmeas, hmeas'⟩

/-- Settles O9: the cycle refuses what it cannot decode. -/
theorem stepRefusesUndecodableBits : Obligations.StepRefusesUndecodableBits := by
  unfold Obligations.StepRefusesUndecodableBits
  exact fun _ _ _ _ h he => cycle_of_decode_error exec cfg_supported h he

/-- Settles O16: `exec_init` writes one field and no byte of the buffer. -/
theorem initSendsTenBytesOnly : Obligations.InitSendsTenBytesOnly := by
  unfold Obligations.InitSendsTenBytesOnly
  intro s
  refine ⟨_, exec_init s, fun f hf => ?_, fun _ _ => rfl, rfl⟩
  cases f <;> simp_all [Field.same]

/-- Settles O29: `exec_frame_eq`, with the markers of the block's own configuration. -/
theorem frameIsNineteenReceivedBytes : Obligations.FrameIsNineteenReceivedBytes := by
  unfold Obligations.FrameIsNineteenReceivedBytes
  intro s p c
  exact ⟨exec_frame_eq p c s, fun hp => by simp [hp]⟩

/-- Settles O53: `memRead_two` with the radix 256 puts the two bytes side by side. -/
theorem fieldsAreReadHighByteFirst : Obligations.FieldsAreReadHighByteFirst := by
  unfold Obligations.FieldsAreReadHighByteFirst
  intro s a b1 b2 h1 h2
  have hread := memRead_two Config.cfg a s b1 b2 h1 h2
  rw [cfg_fieldRadix] at hread
  rw [toNat_byte_append]
  exact ⟨hread, hread⟩

end Sys2Proof.Machine
end

section
/-! PROOFS. The input stage (40_input_stage R58 to R68): IDLE and RST, the forms of RXB by position, what `Terminated`
drops, and the count of received bytes that fixes `CNT` and the number of verdicts (42_frame_validator R85). -/

namespace Sys2Proof.Machine

/-! ### Operations that only emit -/

/-- From `s` to `t` the outputs `os` are emitted and nothing else happens. -/
structure EmitsOnly (os : List Output) (s t : State) : Prop where
  changes : ChangesOnly [.output] s t
  bytes : KeepsAllBytes s t
  output : t.output = s.output ++ os

theorem emitsOnly_nil (s : State) : EmitsOnly [] s s where
  changes f _ := by cases f <;> rfl
  bytes _ _ := rfl
  output := (List.append_nil _).symm

theorem emitsOnly_emit (o : Output) (s : State) : EmitsOnly [o] s (emit o s) where
  changes f hf := by cases f <;> simp_all [Field.same]
  bytes _ _ := rfl
  output := rfl

theorem EmitsOnly.trans {os os' : List Output} {s t u : State} (h : EmitsOnly os s t)
    (h' : EmitsOnly os' t u) : EmitsOnly (os ++ os') s u where
  changes := h.changes.trans h'.changes (List.Subset.refl _) (List.Subset.refl _)
  bytes a ha := (h'.bytes a ha).trans (h.bytes a ha)
  output := by rw [h'.output, h.output, List.append_assoc]

/-! ### IDLE, RST and the step -/

/-- Settles O7: the cycle under the block's own configuration, which is supported. -/
theorem stepRunsTheDecodedOperation : Obligations.StepRunsTheDecodedOperation := by
  unfold Obligations.StepRunsTheDecodedOperation
  intro s x xs i hinput hdecode
  exact cycle_of_decode_ok exec cfg_supported hinput hdecode

/-- Settles O11: IDLE is an `emit`. -/
theorem idleOnlyEmitsNone : Obligations.IdleOnlyEmitsNone := by
  unfold Obligations.IdleOnlyEmitsNone
  intro s hr
  obtain ⟨hchanges, hbytes, houtput⟩ := emitsOnly_emit .none s
  exact ⟨_, (execIdle_eq_next s _).mpr ⟨hr, rfl⟩, hchanges, hbytes, houtput⟩

/-- Settles O12: an opened session has the reset values, and no byte of its buffer has a value. -/
theorem resetLoadsTheResetValues : Obligations.ResetLoadsTheResetValues := by
  unfold Obligations.ResetLoadsTheResetValues
  intro s
  refine ⟨fun hdiv => ⟨_, (execRst_eq_next s _).mpr ⟨hdiv, rfl⟩, ?_⟩, fun hdiv => if_pos hdiv⟩
  refine ⟨rfl, rfl, rfl, rfl, rfl, rfl, rfl, rfl, rfl, rfl, rfl, rfl, rfl, rfl, rfl, fun a ha => ?_⟩
  rw [readByte_emit, readByte_openSession _ _ _ ha]

/-- A session opened over another leaves nothing of it but its output. -/
theorem openSession_over_openSession (m n : U16) (o : Output) (s : State) :
    openSession n { emit o (openSession m s) with cfgDivider := n } =
      emit o (openSession n { s with cfgDivider := n }) := rfl

/-- Settles O13: after the second RST the first is one `None` more in the output sequence. -/
theorem secondResetStandsAlone : Obligations.SecondResetStandsAlone := by
  unfold Obligations.SecondResetStandsAlone
  intro s t u v n hst htu hsv
  obtain ⟨-, rfl⟩ := (execRst_eq_next _ _).mp hst
  obtain ⟨-, rfl⟩ := (execRst_eq_next _ _).mp htu
  obtain ⟨-, rfl⟩ := (execRst_eq_next _ _).mp hsv
  rw [openSession_over_openSession]
  obtain ⟨hchanges, hbytes, houtput⟩ :=
    emitsOnly_emit .none (emit .none (openSession n { s with cfgDivider := n }))
  exact ⟨hchanges, rfl, hbytes, houtput⟩

/-! ### The forms of RXB (R62 to R66) -/

/-- A byte that does not complete a frame: what it writes, and what it leaves alone. -/
theorem exec_rxb_stores_at_cnt (d : Byte) {s : State} (hl : Live s) (hc : s.cnt.val < 18) :
    ∃ t, exec (.rxb d) s = .next t ∧ ChangesOnly [.cnt, .acc, .output] s t ∧
      KeepsBytes (fun a => a = s.cnt.val) s t ∧ readByte s.cnt.val t = .ok d ∧
      t.acc = accAfter d s ∧ t.cnt.val = s.cnt.val + 1 ∧ t.output = s.output ++ [.none] := by
  have hrec : Received d s _ := .byteStored (by omega)
  refine ⟨_, exec_rxb_stored d hl hc, fun f hf => ?_, fun a ha => hrec.readByte_other ha,
    hrec.readByte_same, rfl, ?_, rfl⟩
  · cases f <;> simp_all [Field.same]
  · rw [hrec.frame.1, cnt_succ_val]
    omega

/-- Settles O18: RXB is the form that `CNT` selects, and a received byte is stored and counted. -/
theorem receivedByteTakesTheSelectedForm : Obligations.ReceivedByteTakesTheSelectedForm := by
  unfold Obligations.ReceivedByteTakesTheSelectedForm
  intro s d hr
  refine ⟨execRxb_terminated d s hr, fun hm => ⟨execRxb_start d s, execRxb_pay d s, execRxb_chk d s,
    execRxb_stop d s, fun t ht => ?_⟩⟩
  have hrec := received_of_execRxb ht hm
  exact ⟨hrec.readByte_same, by rw [hrec.frame.1, cnt_succ_val]⟩

/-- Settles O19: at `CNT` 0 RXB is RXB.START, after which `ACC` is 0. -/
theorem startByteClearsTheAccumulator : Obligations.StartByteClearsTheAccumulator := by
  unfold Obligations.StartByteClearsTheAccumulator
  intro s d hl hc
  have h0 : s.cnt.val = 0 := congrArg Fin.val hc
  obtain ⟨t, ht, hchanges, hbytes, hread, hacc, hcnt, hout⟩ := exec_rxb_stores_at_cnt d hl (by omega)
  have hform : exec (.rxbStart d) s = .next t := (execRxb_start d s h0).symm.trans ht
  rw [accAfter, if_pos h0] at hacc
  rw [h0] at hread
  exact ⟨t, hform, ht, hchanges, hbytes, hread, hacc, Fin.ext (by rw [hcnt, h0]; rfl), hout⟩

/-- Settles O20: at `CNT` 1 to 16 RXB is RXB.PAY, which folds the byte into `ACC`. -/
theorem payloadByteIsFolded : Obligations.PayloadByteIsFolded := by
  unfold Obligations.PayloadByteIsFolded
  intro s d hl h1 h16
  obtain ⟨t, ht, hchanges, hbytes, hread, hacc, hcnt, hout⟩ := exec_rxb_stores_at_cnt d hl (by omega)
  have hform : exec (.rxbPay d) s = .next t := (execRxb_pay d s h1 h16).symm.trans ht
  rw [accAfter, if_neg (by omega), if_pos h16] at hacc
  exact ⟨t, hform, ht, hchanges, hbytes, hread, hacc, hcnt, hout⟩

/-- Settles O21: at `CNT` 17 RXB is RXB.CHK, which leaves `ACC`. -/
theorem checksumByteIsStored : Obligations.ChecksumByteIsStored := by
  unfold Obligations.ChecksumByteIsStored
  intro s d hl hc
  have h17 : s.cnt.val = 17 := congrArg Fin.val hc
  obtain ⟨t, ht, hchanges, hbytes, hread, hacc, hcnt, hout⟩ := exec_rxb_stores_at_cnt d hl (by omega)
  have hform : exec (.rxbChk d) s = .next t := (execRxb_chk d s h17).symm.trans ht
  rw [accAfter, if_neg (by omega), if_neg (by omega)] at hacc
  rw [h17] at hread
  refine ⟨t, hform, ht, fun f hf => ?_, hbytes, hread, Fin.ext (by rw [hcnt, h17]; rfl), hout⟩
  by_cases hf' : f = .acc
  · subst hf'
    exact hacc
  · exact hchanges f (by simp_all)

/-- Settles O27: each form is selected at its own offsets alone. -/
theorem formsOutOfPositionAreRefused : Obligations.FormsOutOfPositionAreRefused := by
  unfold Obligations.FormsOutOfPositionAreRefused
  intro s d hl
  refine ⟨fun h => ?_, fun h => ?_, fun h => ?_, fun h => ?_⟩
  · exact onForm_elsewhere _ _ _ _ hl fun hf => h ((formAt_start _).mp hf)
  · refine onForm_elsewhere _ _ _ _ hl fun hf => ?_
    obtain ⟨h1, h16⟩ := (formAt_pay _).mp hf
    omega
  · exact onForm_elsewhere _ _ _ _ hl fun hf => h ((formAt_chk _).mp hf)
  · exact onForm_elsewhere _ _ _ _ hl fun hf => h ((formAt_stop _).mp hf)

/-! ### `Terminated` (R67) -/

section
variable {s : State} (hr : s.rstSeen = true) (hm : s.mode = .terminated)
include hr hm

theorem exec_event_terminated {i : Instr} (hev : isEvent i = true) (hi : i ≠ .rst) :
    exec i s = .next (emit .none s) := by
  cases i with
  | rst => exact absurd rfl hi
  | rxf => exact (execRxf_eq_next s _).mpr ⟨hr, .inr ⟨hm, rfl⟩⟩
  | rxb d => exact execRxb_terminated d s hr hm
  | idle => exact (execIdle_eq_next s _).mpr ⟨hr, rfl⟩
  | rxbStart d => exact onForm_terminated _ _ _ _ hr hm
  | rxbPay d => exact onForm_terminated _ _ _ _ hr hm
  | rxbChk d => exact onForm_terminated _ _ _ _ hr hm
  | rxbStop d => exact onForm_terminated _ _ _ _ hr hm
  | frame p c => cases hev
  | init => cases hev

/-- Bytes received in `Terminated` are dropped one by one. -/
theorem receiveAll_terminated (bs : List Byte) :
    ∃ t, receiveAll Config.cfg bs s = .next t ∧
      EmitsOnly (List.replicate bs.length .none) s t := by
  induction bs generalizing s with
  | nil => exact ⟨s, rfl, emitsOnly_nil s⟩
  | cons b bs ih =>
    obtain ⟨t, ht, hemits⟩ := ih (s := emit .none s) hr hm
    refine ⟨t, ?_, (emitsOnly_emit .none s).trans hemits⟩
    rw [receiveAll_cons, execRxb_terminated b s hr hm, andThen_next, ht]

theorem exec_frame_terminated (p : List Byte) (c : Byte) :
    ∃ t, exec (.frame p c) s = .next t ∧
      EmitsOnly (List.replicate (p.length + 3) .none) s t := by
  have hlen : (frameBytes Config.cfg p c).length = p.length + 3 := by simp [frameBytes]
  rw [← hlen]
  exact receiveAll_terminated hr hm _

/-- Only RST leaves `Terminated`. -/
theorem exec_mode_terminated {i : Instr} {t : State} (hi : i ≠ .rst) (h : exec i s = .next t) :
    t.mode = .terminated := by
  by_cases hev : isEvent i = true
  · rw [exec_event_terminated hr hm hev hi] at h
    cases h
    exact hm
  cases i with
  | frame p c =>
    obtain ⟨u, hu, hemits⟩ := exec_frame_terminated hr hm p c
    cases hu.symm.trans h
    exact (hemits.changes .mode (by decide)).trans hm
  | init =>
    cases h
    exact hm
  | _ => exact absurd rfl hev

end

/-- Settles O35: events and the bytes of a FRAME only emit `None`, and so MODE stays but for RST. -/
theorem terminatedDropsEverythingButReset : Obligations.TerminatedDropsEverythingButReset := by
  unfold Obligations.TerminatedDropsEverythingButReset
  intro i s hr hm
  refine ⟨fun hev hi => ?_, ?_, fun t ht hrun => ?_⟩
  · obtain ⟨hchanges, hbytes, houtput⟩ := emitsOnly_emit .none s
    exact ⟨_, exec_event_terminated hr hm hev hi, hchanges, hbytes, houtput⟩
  · rintro p c rfl
    obtain ⟨t, ht, hchanges, hbytes, houtput⟩ := exec_frame_terminated hr hm p c
    exact ⟨t, ht, hchanges, hbytes, houtput⟩
  · by_contra hi
    cases (exec_mode_terminated hr hm hi ht).symm.trans hrun

/-! ### One output per event (R58) -/

theorem report_isVerdict (e : Exc) : e.report.isVerdict = true := by
  cases e <;> rfl

theorem verdictCount_append (os os' : List Output) :
    verdictCount (os ++ os') = verdictCount os + verdictCount os' := by
  simp [verdictCount]

theorem verdictCount_singleton (o : Output) :
    verdictCount [o] = if o.isVerdict then 1 else 0 := by
  cases h : o.isVerdict <;> simp [verdictCount, h]

theorem verdictCount_none : verdictCount [.none] = 0 := rfl

/-- The byte that completes a frame emits a verdict, every other byte `None` (42_frame_validator R85). -/
theorem Received.output_eq {d : Byte} {s t : State} (h : Received d s t) :
    ∃ o, t.output = s.output ++ [o] ∧ (o.isVerdict = true ↔ s.cnt.val = 18) := by
  cases h with
  | byteStored hc => exact ⟨.none, rfl, nofun, by omega⟩
  | frameRejected hc e => exact ⟨e.report, rfl, fun _ => hc, fun _ => report_isVerdict e⟩
  | frameDelivered hc => exact ⟨_, rfl, fun _ => hc, fun _ => rfl⟩

theorem exec_event_output {i : Instr} {s t : State} (hev : isEvent i = true)
    (h : exec i s = .next t) : ∃ o, t.output = s.output ++ [o] := by
  have hframe : ∀ p c, i ≠ .frame p c := by rintro p c rfl; cases hev
  cases effect_of_exec hframe h with
  | reset => exact ⟨_, rfl⟩
  | sent hi => subst hi; cases hev
  | ignored => exact ⟨_, rfl⟩
  | failed => exact ⟨_, rfl⟩
  | received _ _ _ hrec =>
    obtain ⟨o, ho, -⟩ := hrec.output_eq
    exact ⟨o, ho⟩

/-! ### The count of received bytes (R68, R85) -/

/-- The bytes in a run of IDLE and RXB. -/
def byteCount (is : List Instr) : Nat := (is.filter fun i => decide (i ≠ .idle)).length

theorem byteCount_cons (i : Instr) (is : List Instr) :
    byteCount (i :: is) = (if i = .idle then 0 else 1) + byteCount is := by
  by_cases h : i = .idle <;> simp [byteCount, h, Nat.add_comm]

theorem byteCount_map_rxb (bs : List Byte) : byteCount (bs.map Instr.rxb) = bs.length := by
  simp [byteCount, List.filter_map, Function.comp_def]

/-- From `s` to `t` the outputs `os` are emitted while `n` bytes are received. Each verdict takes nineteen of the bytes
counted since the last frame boundary; none is lost as long as the session lasts, and a session that has ended stays so. -/
structure Tally (n : Nat) (os : List Output) (s t : State) : Prop where
  output : t.output = s.output ++ os
  count_le : 19 * verdictCount os + t.cnt.val ≤ s.cnt.val + n
  running : t.mode = .running → s.mode = .running ∧ 19 * verdictCount os + t.cnt.val = s.cnt.val + n

theorem tally_nil (s : State) : Tally 0 [] s s where
  output := (List.append_nil _).symm
  count_le := by simp [verdictCount]
  running hm := ⟨hm, by simp [verdictCount]⟩

theorem Tally.append {m n : Nat} {os os' : List Output} {s t u : State} (h : Tally m os s t)
    (h' : Tally n os' t u) : Tally (m + n) (os ++ os') s u where
  output := by rw [h'.output, h.output, List.append_assoc]
  count_le := by
    have hle := h.count_le
    have hle' := h'.count_le
    rw [verdictCount_append]
    omega
  running hm := by
    obtain ⟨hm', heq'⟩ := h'.running hm
    obtain ⟨hm'', heq⟩ := h.running hm'
    refine ⟨hm'', ?_⟩
    rw [verdictCount_append]
    omega

theorem tally_emit_none (s : State) : Tally 0 [.none] s (emit .none s) where
  output := rfl
  count_le := by simp [verdictCount_none]
  running hm := ⟨hm, by simp [verdictCount_none]⟩

/-- A received byte is counted: `CNT` advances, or wraps to 0 with a verdict. -/
theorem Received.tally {d : Byte} {s t : State} (h : Received d s t) (hm : s.mode = .running) :
    ∃ o, Tally 1 [o] s t := by
  obtain ⟨o, ho, hverdict⟩ := h.output_eq
  have hlt := s.cnt.isLt
  have hcnt : t.cnt.val = (s.cnt.val + 1) % 19 := by rw [h.frame.1, cnt_succ_val]
  have hcount : 19 * verdictCount [o] + t.cnt.val = s.cnt.val + 1 := by
    rw [verdictCount_singleton, hcnt]
    split_ifs with hv
    · have hlast := hverdict.mp hv
      omega
    · have hnotLast : s.cnt.val ≠ 18 := fun hc => hv (hverdict.mpr hc)
      omega
  exact ⟨o, ho, hcount.le, fun _ => ⟨hm, hcount⟩⟩

theorem execRxb_tally {d : Byte} {s t : State} (h : execRxb d s = .next t) : ∃ o, Tally 1 [o] s t := by
  cases hm : s.mode with
  | running => exact (received_of_execRxb h hm).tally hm
  | terminated =>
    obtain ⟨hr, -⟩ := (execRxb_eq_next d s t).mp h
    cases (execRxb_terminated d s hr hm).symm.trans h
    exact ⟨.none, rfl, (tally_emit_none s).count_le.trans (Nat.le_succ _), fun hrun => by
      cases hm.symm.trans hrun⟩

/-- The operations of a run of received bytes with IDLE events between them. -/
def IdleOrRxb (i : Instr) : Prop := i = .idle ∨ ∃ d, i = .rxb d

theorem IdleOrRxb.tally {i : Instr} {s t : State} (hi : IdleOrRxb i) (h : exec i s = .next t) :
    ∃ o, Tally (if i = .idle then 0 else 1) [o] s t := by
  rcases hi with rfl | ⟨d, rfl⟩
  · obtain ⟨-, rfl⟩ := (execIdle_eq_next s t).mp h
    exact ⟨.none, tally_emit_none s⟩
  · exact execRxb_tally h

theorem execAll_tally {is : List Instr} {s t : State} (his : ∀ i ∈ is, IdleOrRxb i)
    (h : execAll is s = .next t) : ∃ os, os.length = is.length ∧ Tally (byteCount is) os s t := by
  induction is generalizing s with
  | nil =>
    cases h
    exact ⟨[], rfl, tally_nil _⟩
  | cons i is ih =>
    obtain ⟨u, hu, ht⟩ := (andThen_eq_next _ _ _).mp h
    obtain ⟨o, ho⟩ := (his i List.mem_cons_self).tally hu
    obtain ⟨os, hlen, hos⟩ := ih (fun j hj => his j (List.mem_cons_of_mem i hj)) ht
    refine ⟨o :: os, by rw [List.length_cons, hlen, List.length_cons], ?_⟩
    rw [byteCount_cons]
    exact ho.append hos

/-- Settles O34: the tally of the run, whose last `CNT` is below 19. -/
theorem positionAndVerdictsFollowTheByteCount :
    Obligations.PositionAndVerdictsFollowTheByteCount := by
  unfold Obligations.PositionAndVerdictsFollowTheByteCount
  intro is s t _ his h hm
  obtain ⟨os, -, htally⟩ := execAll_tally his h
  obtain ⟨-, hcount⟩ := htally.running hm
  have hlt := t.cnt.isLt
  have hnew : newOutputs s t = os := by simp [newOutputs, htally.output]
  unfold byteCount at hcount
  rw [hnew]
  omega

/-- A FRAME emits one output per byte, and its nineteen bytes complete at most one frame. -/
theorem exec_frame_output {p : List Byte} {c : Byte} {s t : State} (hp : p.length = 16)
    (h : exec (.frame p c) s = .next t) :
    ∃ os, t.output = s.output ++ os ∧ os.length = 19 ∧ verdictCount os ≤ 1 := by
  rw [exec_frame_eq] at h
  have hlen : (frameBytes Config.cfg p c).length = 19 := by simp [frameBytes, hp]
  obtain ⟨os, hos, htally⟩ := execAll_tally
    (fun i hi => by obtain ⟨d, -, rfl⟩ := List.mem_map.mp hi; exact .inr ⟨d, rfl⟩) h
  rw [List.length_map, hlen] at hos
  have hcount := htally.count_le
  rw [byteCount_map_rxb, hlen] at hcount
  have hlt := s.cnt.isLt
  exact ⟨os, htally.output, hos, by omega⟩

/-- Settles O39: an event by its one output, FRAME by the tally of its bytes, INIT by `exec_init`. -/
theorem oneOutputPerEvent : Obligations.OneOutputPerEvent := by
  unfold Obligations.OneOutputPerEvent
  intro i s t hwf h
  by_cases hev : isEvent i = true
  · obtain ⟨o, ho⟩ := exec_event_output hev h
    refine ⟨[o], ho, ?_, fun _ => rfl, ?_, ?_⟩
    · rw [verdictCount_singleton]
      split_ifs <;> omega
    · rintro p c rfl
      cases hev
    · rintro rfl
      cases hev
  cases i with
  | frame p c =>
    obtain ⟨os, hout, hlen, hverdicts⟩ := exec_frame_output (beq_iff_eq.mp hwf) h
    exact ⟨os, hout, hverdicts, nofun, fun _ _ _ => hlen, nofun⟩
  | init =>
    rw [exec_init] at h
    cases h
    exact ⟨[], (List.append_nil _).symm, Nat.zero_le _, nofun, nofun, fun _ => rfl⟩
  | _ => exact absurd rfl hev

end Sys2Proof.Machine
end

section
/-! PROOFS. The checksum (41_checksum R69 to R75): its laws on byte sequences, what a wrong payload does to a FRAME, and
when `ACC` is written. -/

namespace Sys2Proof.Machine

/-! ### Bits and laws (R69, R73, R75) -/

/-- A byte flips the parity of bit `j` exactly where its own bit `j` is set. -/
theorem getLsbD_checksum (bs : List Byte) (j : Nat) :
    (checksum bs).getLsbD j = decide ((bs.filter fun b => b.getLsbD j).length % 2 = 1) := by
  induction bs with
  | nil => simp
  | cons b bs ih =>
    rw [checksum_cons, BitVec.getLsbD_xor, ih]
    cases hb : b.getLsbD j with
    | false => simp [hb]
    | true =>
      rw [List.filter_cons_of_pos (by simpa using hb), List.length_cons, Bool.true_xor, ← decide_not,
        decide_eq_decide]
      omega

theorem checksum_perm {p q : List Byte} (h : p.Perm q) : checksum p = checksum q := by
  induction h with
  | nil => rfl
  | cons b _ ih => rw [checksum_cons, checksum_cons, ih]
  | swap a b bs => simp only [checksum_cons, ← BitVec.xor_assoc, BitVec.xor_comm b a]
  | trans _ _ ih ih' => exact ih.trans ih'

theorem checksum_append_singleton (bs : List Byte) (k : Byte) : checksum (bs ++ [k]) = checksum bs ^^^ k := by
  simp [checksum_append]

/-- Two equal halves cancel. -/
theorem checksum_append_self (bs : List Byte) : checksum (bs ++ bs) = 0x00 := by
  rw [checksum_append, BitVec.xor_self]
  rfl

/-- Inverting bits of one byte inverts the same bits of the checksum. -/
theorem checksum_set_xor {bs : List Byte} {j : Nat} (hj : j < bs.length) (mask : Byte) :
    checksum (bs.set j (bs.getD j 0 ^^^ mask)) = checksum bs ^^^ mask := by
  have byteFirst : ∀ x, checksum (bs.set j x) = x ^^^ checksum (bs.eraseIdx j) := fun x =>
    checksum_perm (List.set_perm_cons_eraseIdx hj x)
  have hbs : checksum bs = bs.getD j 0 ^^^ checksum (bs.eraseIdx j) := by
    rw [← byteFirst, List.getD_eq_getElem _ _ hj, List.set_getElem_self]
  rw [byteFirst, hbs, BitVec.xor_assoc, BitVec.xor_comm mask, BitVec.xor_assoc]

/-- A flipped bit shows: no byte is itself with one bit inverted. -/
theorem xor_twoPow_ne (a : Byte) {b : Nat} (hb : b < 8) : a ^^^ BitVec.twoPow 8 b ≠ a := by
  intro h
  have hbit := congrArg (fun x : Byte => x.getLsbD b) h
  simp [hb] at hbit

/-! ### The check of the checksum byte (R72) -/

theorem chkOk_iff (a k : Byte) : chkOk a k = true ↔ a = k := by
  simp [chkOk]

/-- The checksum byte is right exactly when the fold over payload and checksum byte is 0. -/
theorem chkOk_checksum_iff (p : List Byte) (k : Byte) :
    chkOk (checksum p) k = true ↔ checksum (p ++ [k]) = 0x00 := by
  rw [chkOk_iff, checksum_append_singleton]
  exact BitVec.xor_eq_zero_iff.symm

/-! ### A FRAME at a frame boundary (R74, R83) -/

section
variable {s : State} {p : List Byte} (hl : Live s) (hc : s.cnt = 0) (hp : p.length = 16)
include hl hc hp

/-- The nineteen bytes of a FRAME are stored, and with its own markers only the checksum is left to judge. -/
theorem exec_frame_judged (c : Byte) :
    ∃ u rawCur rawVolt, exec (.frame p c) s =
        .next (judged Config.cfg Config.cfg.startMarker Config.cfg.stopMarker c rawCur rawVolt u) ∧
      u.acc = checksum p ∧ u.mode = .running ∧
      u.output = s.output ++ List.replicate 18 .none := by
  have hlen : (frameBytes Config.cfg p c).length = 19 := by rw [frameBytes_length, hp]
  obtain ⟨u, hrun, -, -, hacc, hout, hchanges⟩ := execAll_rxb_nineteen hl hc hlen
  rw [payload_frameBytes _ _ hp] at hacc
  rw [judgedFrame, frameBytes_getD_start, frameBytes_getD_stop _ _ hp,
    frameBytes_getD_chk _ _ hp] at hrun
  exact ⟨u, _, _, (exec_frame_eq p c s).trans hrun, hacc,
    (hchanges .mode (by decide)).trans hl.2, hout⟩

theorem exec_frame_of_chk_eq :
    ∃ t, exec (.frame p (checksum p)) s = .next t ∧ t.lastOutput.ok = true ∧ t.mode = .running := by
  obtain ⟨u, _, _, hexec, hacc, hmode, -⟩ := exec_frame_judged hl hc hp (checksum p)
  rw [judged_of_trusted rfl rfl hacc] at hexec
  exact ⟨_, hexec, by rw [delivered, lastOutput_emit]; rfl, hmode⟩

theorem exec_frame_of_chk_ne {c : Byte} (hne : checksum p ≠ c) :
    ∃ t, exec (.frame p c) s = .next t ∧ t.mode = .running ∧ t.err = .invalidChecksum ∧
      t.output = s.output ++ List.replicate 18 .none ++ [.diag (checksum p) c] := by
  obtain ⟨u, _, _, hexec, hacc, hmode, hout⟩ := exec_frame_judged hl hc hp c
  rw [← hacc] at hne ⊢
  rw [judged_of_chk_ne rfl rfl hne] at hexec
  exact ⟨_, hexec, hmode, rfl, by rw [raise_output, hout, Exc.report]⟩

end

/-! ### When `ACC` is written (R71) -/

/-- In `Terminated` an operation other than RST and FRAME keeps the mode and `ACC`. -/
theorem Effect.terminated {i : Instr} {s t : State} (h : Effect i s t) (hi : i ≠ .rst)
    (hm : s.mode = .terminated) : t.mode = .terminated ∧ t.acc = s.acc := by
  cases h with
  | reset hrst => exact absurd hrst hi
  | sent => exact ⟨hm, rfl⟩
  | ignored => exact ⟨hm, rfl⟩
  | failed _ hl => cases hm.symm.trans hl.2
  | received _ _ hl => cases hm.symm.trans hl.2

theorem exec_terminated {i : Instr} {s t : State} (h : exec i s = .next t) (hi : i ≠ .rst)
    (hm : s.mode = .terminated) : t.mode = .terminated ∧ t.acc = s.acc :=
  exec_lift (R := fun s t => s.mode = .terminated → t.mode = .terminated ∧ t.acc = s.acc)
    (fun _ hm => ⟨hm, rfl⟩)
    (fun _ _ _ hst htu hm => ⟨(htu (hst hm).1).1, (htu (hst hm).1).2.trans (hst hm).2⟩)
    (fun _ _ _ hb => (effect_of_execRxb hb).terminated nofun)
    (fun hf => (effect_of_exec hf h).terminated hi) h hm

/-- Only RST and received bytes write `ACC`. -/
theorem Effect.acc_of_no_byte {i : Instr} {s t : State} (h : Effect i s t) (hi : i ≠ .rst)
    (hb : byteOf i = none) : t.acc = s.acc := by
  cases h with
  | reset hrst => exact absurd hrst hi
  | sent => rfl
  | ignored => rfl
  | failed => rfl
  | received _ hd => cases hb.symm.trans hd

/-! ### The obligations -/

/-- Settles O31: the frame's verdict is the comparison of its checksum byte, and a flipped payload bit flips the same
bit of the checksum. -/
theorem checksumRoundTripAndSingleBitErrors : Obligations.ChecksumRoundTripAndSingleBitErrors := by
  unfold Obligations.ChecksumRoundTripAndSingleBitErrors
  refine ⟨fun _ => BitVec.xor_self, fun bs => ?_, by decide, fun s p hl hc hp =>
    ⟨exec_frame_of_chk_eq hl hc hp, fun j hj b hb => ?_⟩⟩
  · rw [checksum_append_singleton, BitVec.xor_self]
    rfl
  · have hflip : checksum (p.set j (p.getD j 0 ^^^ BitVec.twoPow 8 b)) =
        checksum p ^^^ BitVec.twoPow 8 b := checksum_set_xor (by omega) _
    have hne := xor_twoPow_ne (checksum p) hb
    rw [← hflip] at hne
    obtain ⟨t, hexec, hmode, herr, hout⟩ := exec_frame_of_chk_ne hl hc (by simpa using hp) hne
    exact ⟨t, _, hexec, hne, hmode, herr, hout⟩

/-- Settles O42: RST and received bytes write `ACC`, these by `accAfter`; nothing else does. -/
theorem accumulatorUpdatesAreTheTable : Obligations.AccumulatorUpdatesAreTheTable := by
  unfold Obligations.AccumulatorUpdatesAreTheTable
  intro i s t h
  refine ⟨?_, ?_, fun hm hi => (exec_terminated h hi hm).2, fun d hd hm => ?_⟩
  · rintro rfl
    obtain ⟨-, rfl⟩ := (execRst_eq_next s t).mp h
    rfl
  · intro hi
    have heffect : Effect i s t := effect_of_exec (by rintro p c rfl; simp at hi) h
    exact heffect.acc_of_no_byte (by rintro rfl; simp at hi)
      (by rcases hi with rfl | rfl | rfl <;> rfl)
  · rw [(received_of_execRxb (byteEvent_eq_next hd h) hm).acc_eq, accAfter]
    refine ⟨fun h0 => if_pos h0, fun h1 h16 => ?_, fun h17 => ?_⟩
    · rw [if_neg (by omega), if_pos h16]
    · rw [if_neg (by omega), if_neg (by omega)]

/-- Settles O51: the laws of `checksum` above, and `chkOk` as a fold of the checksum byte too. -/
theorem checksumLawsHold : Obligations.ChecksumLawsHold := by
  unfold Obligations.ChecksumLawsHold
  refine ⟨fun _ _ => checksum_perm, checksum_append, fun a b hb => ?_, fun p q k l h => ?_,
    fun p _ => ⟨checksum p, (chkOk_iff _ _).mpr rfl, fun k hk => ((chkOk_iff _ _).mp hk).symm⟩,
    fun b => checksum_append_self (List.replicate 8 b)⟩
  · rw [Bool.eq_false_iff, ne_eq, chkOk_iff]
    exact (xor_twoPow_ne a hb).symm
  · rw [Bool.eq_iff_iff, chkOk_checksum_iff, chkOk_checksum_iff, h]

/-- Settles O52: `getLsbD_checksum`. -/
theorem checksumIsBitwiseParity : Obligations.ChecksumIsBitwiseParity := by
  unfold Obligations.ChecksumIsBitwiseParity
  exact ⟨checksum_nil, fun bs j _ => getLsbD_checksum bs j⟩

end Sys2Proof.Machine
end

section
/-! PROOFS. The verdict on a complete frame (42_frame_validator R77 to R87): what the last byte brings in each row of the
table, from a buffer in which only the bytes that the row reads need have a value; and the FRAME that is trusted. -/

namespace Sys2Proof.Machine

/-! ### The last byte of a frame -/

/-- From `s`, in `Running` at `CNT` 18, byte `d` completes the frame and leads to `t`, as RXB.STOP and as RXB. -/
structure Completes (d : Byte) (s t : State) : Prop where
  stop : exec (.rxbStop d) s = .next t
  rxb : exec (.rxb d) s = .next t
  cnt : t.cnt = 0
  acc : t.acc = s.acc
  bytes : KeepsBytes (fun a => a = s.cnt.val) s t
  last : readByte 18 t = .ok d

theorem completes_of_verdict {d : Byte} {s t : State} (hl : Live s) (hc : s.cnt.val = 18)
    (h : verdict Config.cfg (storeAndAdvance d s) = .next t) : Completes d s t := by
  have hstop : exec (.rxbStop d) s = .next t :=
    (execUnder_rxbStop_live (c := Config.cfg) d hl ((formAt_stop _).mpr hc)).trans h
  have hrxb : exec (.rxb d) s = .next t := (execRxb_stop d s hc).trans hstop
  have hrec : Received d s t := received_of_execRxb hrxb hl.2
  refine ⟨hstop, hrxb, ?_, ?_, fun a ha => hrec.readByte_other ha, ?_⟩
  · exact Fin.ext (by rw [hrec.frame.1, cnt_succ_val, hc]; rfl)
  · rw [hrec.acc_eq, accAfter, if_neg (by omega), if_neg (by omega)]
  · rw [← hc]
    exact hrec.readByte_same

/-! ### Which fields the last byte changes (R87) -/

theorem changesOnly_fatal (e : Exc) (d : Byte) (s : State) :
    ChangesOnly [.mode, .cnt, .err, .output] s (raise e (storeAndAdvance d s)) :=
  (changesOnly_storeAndAdvance d s).trans (changesOnly_raise e _) (by decide) (by decide)

theorem changesOnly_recoverable {e : Exc} (he : e.cause.isFatal = false) (d : Byte) (s : State) :
    ChangesOnly [.cnt, .err, .output] s (raise e (storeAndAdvance d s)) :=
  (changesOnly_storeAndAdvance d s).trans (changesOnly_raise_recoverable e _ he) (by decide) (by decide)

theorem changesOnly_trusted (c : Cfg) (rawCur rawVolt : Int) (chk d : Byte) (s : State) :
    ChangesOnly [.cnt, .err, .mValid, .mCur, .mVolt, .mChk, .output] s
      (delivered c rawCur rawVolt chk (storeAndAdvance d s)) :=
  (changesOnly_storeAndAdvance d s).trans (changesOnly_delivered _ _ _ _ _) (by decide) (by decide)

/-- A field that does not change after all need not be listed. -/
theorem ChangesOnly.drop {f : Field} {fs : List Field} {s t : State} (h : ChangesOnly (f :: fs) s t)
    (hf : f.same s t) : ChangesOnly fs s t := by
  intro g hg
  by_cases hgf : g = f
  · exact hgf ▸ hf
  · exact h g (List.not_mem_cons_of_ne_of_not_mem hgf hg)

/-! ### The rows of the verdict (R80 to R84) -/

section
variable {d : Byte} {s : State} (hl : Live s) (hc : s.cnt.val = 18)
include hl hc

/-- A wrong start byte decides alone: no other byte need have a value (R80). -/
theorem completes_of_start_ne {b : Byte} (h0 : readByte 0 s = .ok b) (hb : b ≠ 0xFA) :
    Completes d s (raise (.invalidStartByte b) (storeAndAdvance d s)) := by
  refine completes_of_verdict hl hc ((verdict_eq_next _ _ _).mpr ⟨b, ?_, .inl ⟨?_, rfl⟩⟩)
  · exact (readByte_atStop hc (by decide)).trans h0
  · simpa [startOk] using hb

/-- A wrong stop byte decides without the checksum byte (R81). -/
theorem completes_of_stop_ne (h0 : readByte 0 s = .ok 0xFA) (hd : d ≠ 0xF8) :
    Completes d s (raise (.invalidStopByte d) (storeAndAdvance d s)) := by
  refine completes_of_verdict hl hc ((verdict_eq_next _ _ _).mpr
    ⟨0xFA, ?_, .inr ⟨rfl, d, readByte_atStop_last hc, .inl ⟨?_, rfl⟩⟩⟩)
  · exact (readByte_atStop hc (by decide)).trans h0
  · simpa [stopOk] using hd

/-- A wrong checksum decides without the field bytes (R83). -/
theorem completes_of_chk_ne {k : Byte} (h0 : readByte 0 s = .ok 0xFA) (h17 : readByte 17 s = .ok k)
    (hk : s.acc ≠ k) :
    Completes 0xF8 s (raise (.invalidChecksum s.acc k) (storeAndAdvance 0xF8 s)) := by
  refine completes_of_verdict hl hc ((verdict_eq_next _ _ _).mpr
    ⟨0xFA, ?_, .inr ⟨rfl, 0xF8, readByte_atStop_last hc, .inr ⟨rfl, k, ?_, .inl ⟨?_, rfl⟩⟩⟩⟩)
  · exact (readByte_atStop hc (by decide)).trans h0
  · exact (readByte_atStop hc (by decide)).trans h17
  · simpa [chkOk] using hk

/-- A trusted frame is delivered with the raw values of its two fields (R84). -/
theorem completes_of_trusted {ch cl vh vl : Byte} (h0 : readByte 0 s = .ok 0xFA)
    (h2 : readByte 2 s = .ok ch) (h3 : readByte 3 s = .ok cl) (h4 : readByte 4 s = .ok vh)
    (h5 : readByte 5 s = .ok vl) (h17 : readByte 17 s = .ok s.acc) :
    Completes 0xF8 s (delivered Config.cfg ↑(ch.toNat * 256 + cl.toNat) ↑(vh.toNat * 256 + vl.toNat)
      s.acc (storeAndAdvance 0xF8 s)) := by
  refine completes_of_verdict hl hc ?_
  rw [verdict_storeAndAdvance_eq_judged _ rfl rfl rfl rfl hc h0 h17 h2 h3 h4 h5]
  exact congrArg Host.Outcome.next (judged_of_trusted rfl rfl rfl)

end

/-! ### The numerators that are latched (43_decoder R90, R91) -/

theorem curNum_cfg (r : Int) : curNum Config.cfg r = r - Int.tdiv r 256 * 16 := rfl

theorem voltNum_cfg (r : Int) :
    voltNum Config.cfg r = (r - 320) - Int.tdiv (r - 5120) 256 * 16 := rfl

theorem field_lt (hi lo : Byte) : hi.toNat * 256 + lo.toNat < 65536 := by
  rw [← toNat_byte_append]
  exact (hi ++ lo).isLt

theorem narrow_curNum_toInt {r : Nat} (h : r < 65536) :
    (narrow Config.cfg (curNum Config.cfg r)).toInt = curNum Config.cfg r := by
  obtain ⟨hlow, hhigh⟩ := curNum_range h
  exact narrow_toInt _ (by omega) hhigh

theorem narrow_voltNum_toInt {r : Nat} (h : r < 65536) :
    (narrow Config.cfg (voltNum Config.cfg r)).toInt = voltNum Config.cfg r := by
  obtain ⟨hlow, hhigh⟩ := voltNum_range h
  exact narrow_toInt _ hlow hhigh

/-! ### The invariant before the last byte -/

/-- Before the last byte `ACC` is the checksum of the whole payload (10_state R20). -/
theorem Inv.acc_atStop {s : State} (h : Inv s) (hl : Live s) (hc : s.cnt = 18) :
    s.acc = checksum (payloadBytes s 16) := by
  obtain ⟨-, hrun⟩ := h
  obtain ⟨hacc, -⟩ := hrun hl.1
  obtain ⟨-, hsum⟩ := (hacc hl.2).1 (by rw [hc]; decide)
  rw [hsum, hc]
  rfl

/-! ### The obligations -/

/-- Settles O22: the first check fails, and its exception is fatal. -/
theorem wrongStartMarkerEndsTheSession : Obligations.WrongStartMarkerEndsTheSession := by
  unfold Obligations.WrongStartMarkerEndsTheSession
  intro s b d hl hc h0 hb
  have h := completes_of_start_ne (d := d) hl (congrArg Fin.val hc) h0 hb
  exact ⟨_, h.stop, h.rxb, changesOnly_fatal _ d s, h.bytes, h.last, h.cnt, rfl, rfl, rfl, rfl⟩

/-- Settles O23: the second check fails, and its exception is fatal. -/
theorem wrongStopMarkerEndsTheSession : Obligations.WrongStopMarkerEndsTheSession := by
  unfold Obligations.WrongStopMarkerEndsTheSession
  intro s d hl hc h0 hd
  have h := completes_of_stop_ne hl (congrArg Fin.val hc) h0 hd
  exact ⟨_, h.stop, h.rxb, changesOnly_fatal _ d s, h.bytes, h.last, h.cnt, rfl, rfl, rfl, rfl⟩

/-- Settles O24: the last check fails, and its exception is recoverable. -/
theorem wrongChecksumIsRecoverable : Obligations.WrongChecksumIsRecoverable := by
  unfold Obligations.WrongChecksumIsRecoverable
  intro s k hl hc h0 h17 hk
  have h := completes_of_chk_ne hl (congrArg Fin.val hc) h0 h17 hk
  exact ⟨_, h.stop, h.rxb, changesOnly_recoverable rfl 0xF8 s, h.bytes, h.last, h.cnt, hl.2, rfl, rfl, rfl⟩

/-- Settles O25: no check fails, and both numerators fit the latches. -/
theorem trustedFrameIsDelivered : Obligations.TrustedFrameIsDelivered := by
  unfold Obligations.TrustedFrameIsDelivered
  intro s ch cl vh vl hl hc h0 h2 h3 h4 h5 h17
  have h := completes_of_trusted hl (congrArg Fin.val hc) h0 h2 h3 h4 h5 h17
  refine ⟨_, ((ch.toNat * 256 + cl.toNat : ℕ) : ℤ), ((vh.toNat * 256 + vl.toNat : ℕ) : ℤ), by simp, by simp,
    h.stop, h.rxb, changesOnly_trusted _ _ _ _ _ s, h.bytes, h.last, h.cnt, hl.2, rfl, rfl, rfl, ?_, ?_, rfl⟩
  · exact (narrow_curNum_toInt (field_lt ch cl)).trans (curNum_cfg _)
  · exact (narrow_voltNum_toInt (field_lt vh vl)).trans (voltNum_cfg _)

/-- Settles O26: under the invariant every byte the verdict reads has a value and `ACC` is the checksum of the payload;
then one row of the verdict for each check that can fail, and one for a trusted frame. -/
theorem everyCompleteFrameGetsOneVerdict : Obligations.EveryCompleteFrameGetsOneVerdict := by
  unfold Obligations.EveryCompleteFrameGetsOneVerdict
  intro s d hinv hl hc
  have hv : s.cnt.val = 18 := congrArg Fin.val hc
  have hw : Written s 18 := hv ▸ hinv.written hl
  obtain ⟨b, h0⟩ := hw.readByte (a := 0) (by decide) (by decide)
  obtain ⟨k, h17⟩ := hw.readByte (a := 17) (by decide) (by decide)
  rw [← hinv.acc_atStop hl hc]
  by_cases hb : b = 0xFA
  case neg =>
    have h := completes_of_start_ne (d := d) hl hv h0 hb
    exact ⟨_, _, b, k, h.stop, rfl, h.cnt, h.acc, h0, h17, h.bytes, h.last,
      ⟨nofun, fun ⟨hb', _, _⟩ => absurd hb' hb⟩,
      .inr (.inr ⟨rfl, rfl, rfl, rfl, .inl rfl, changesOnly_fatal _ d s⟩)⟩
  subst hb
  by_cases hd : d = 0xF8
  case neg =>
    have h := completes_of_stop_ne hl hv h0 hd
    exact ⟨_, _, _, k, h.stop, rfl, h.cnt, h.acc, h0, h17, h.bytes, h.last,
      ⟨nofun, fun ⟨_, hd', _⟩ => absurd hd' hd⟩,
      .inr (.inr ⟨rfl, rfl, rfl, rfl, .inr rfl, changesOnly_fatal _ d s⟩)⟩
  subst hd
  by_cases hk : k = s.acc
  case neg =>
    have h := completes_of_chk_ne hl hv h0 h17 (Ne.symm hk)
    exact ⟨_, _, _, k, h.stop, rfl, h.cnt, h.acc, h0, h17, h.bytes, h.last,
      ⟨nofun, fun ⟨_, _, hk'⟩ => absurd hk' hk⟩,
      .inr (.inl ⟨rfl, rfl, rfl, hl.2, rfl, changesOnly_recoverable rfl _ s⟩)⟩
  subst hk
  obtain ⟨ch, h2⟩ := hw.readByte (a := 2) (by decide) (by decide)
  obtain ⟨cl, h3⟩ := hw.readByte (a := 3) (by decide) (by decide)
  obtain ⟨vh, h4⟩ := hw.readByte (a := 4) (by decide) (by decide)
  obtain ⟨vl, h5⟩ := hw.readByte (a := 5) (by decide) (by decide)
  have h := completes_of_trusted hl hv h0 h2 h3 h4 h5 h17
  exact ⟨_, _, _, _, h.stop, rfl, h.cnt, h.acc, h0, h17, h.bytes, h.last,
    ⟨fun _ => ⟨rfl, rfl, rfl⟩, fun _ => rfl⟩,
    .inl ⟨rfl, rfl, rfl, hl.2, rfl, rfl, rfl, rfl,
      ⟨_, _, memRead_two _ 2 s ch cl h2 h3, memRead_two _ 4 s vh vl h4 h5,
        narrow_curNum_toInt (field_lt ch cl), narrow_voltNum_toInt (field_lt vh vl)⟩,
      changesOnly_trusted _ _ _ _ _ s⟩⟩

/-- Settles O30: a FRAME is its nineteen bytes, which are judged as one read; with both markers and the checksum right
none of the three failing rows applies. -/
theorem goodFrameYieldsItsMeasurement : Obligations.GoodFrameYieldsItsMeasurement := by
  unfold Obligations.GoodFrameYieldsItsMeasurement
  intro s p hl hc hp
  have hlen : (frameBytes Config.cfg p (checksum p)).length = 19 := by rw [frameBytes_length, hp]
  have hchk : (frameBytes Config.cfg p (checksum p)).getD 17 0 = checksum p :=
    frameBytes_getD_chk _ _ hp
  have hstop : (frameBytes Config.cfg p (checksum p)).getD 18 0 = 0xF8 := frameBytes_getD_stop _ _ hp
  have hpay : ∀ k < 16, (frameBytes Config.cfg p (checksum p)).getD (k + 1) 0 = p.getD k 0 :=
    fun k hk => frameBytes_getD_payload _ _ (by omega)
  obtain ⟨t, o, hrun, hcnt, hread, hacc, hout, hchanges, hrow⟩ :=
    nineteenBytesAreJudgedAsOneRead s _ hl hc hlen
  rw [payload_frameBytes _ _ hp] at hacc hrow
  rw [hchk, hstop, frameBytes_getD_start, if_neg (by simp), if_neg (by simp), if_neg (by simp),
    hpay 1 (by decide), hpay 2 (by decide), hpay 3 (by decide), hpay 4 (by decide)] at hrow
  obtain ⟨rfl, hmode, herr, hvalid, hmchk, hcur, hvolt⟩ := hrow
  refine ⟨t, (exec_frame_eq p (checksum p) s).trans hrun, hout, hcur, hvolt, hmchk, hvalid, herr, hacc,
    ?_, ?_, ?_, ?_, ?_⟩
  · exact (hchanges.drop (hmode.trans hl.2.symm)).drop (hcnt.trans hc.symm)
  · intro a h1 h16
    rw [hread a (by omega), ← hpay (a - 1) (by omega), Nat.sub_add_cancel h1]
  · exact hread 0 (by decide)
  · rw [hread 17 (by decide), hchk]
  · rw [hread 18 (by decide), hstop]

end Sys2Proof.Machine
end

section
/-! PROOFS. The decoder (43_decoder R90 to R98): its two quotients and its two numerators by the bytes of the field, how
far its values reach, and what a measurement denotes under exact rationals. -/

namespace Sys2Proof.Machine

/-! ### The quotients and the numerators by high and low byte (R97) -/

/-- A field value is its two bytes. -/
theorem exists_bytes {r : Nat} (h : r < 65536) :
    ∃ b1 b2 : Nat, b1 < 256 ∧ b2 < 256 ∧ r = b1 * 256 + b2 :=
  ⟨r / 256, r % 256, by omega, by omega, by omega⟩

section
variable {b1 b2 : Nat} (h2 : b2 < 256)
include h2

theorem tdiv_bytes : Int.tdiv ((b1 * 256 + b2 : Nat) : Int) 256 = b1 := by
  rw [Int.tdiv_eq_ediv_of_nonneg (by omega)]
  omega

/-- Below 20 the dividend is negative and the quotient rounds up, to one more than `b1 - 20` unless 256 divides it. -/
theorem tdiv_bytes_sub_vCorrBias :
    Int.tdiv (((b1 * 256 + b2 : Nat) : Int) - 5120) 256 =
      if b1 < 20 ∧ b2 ≠ 0 then (b1 : Int) - 19 else (b1 : Int) - 20 := by
  by_cases hb : b1 < 20
  · rw [show ((b1 * 256 + b2 : Nat) : Int) - 5120 = -(5120 - (b1 * 256 + b2 : Nat)) by omega,
      Int.neg_tdiv, Int.tdiv_eq_ediv_of_nonneg (by omega)]
    split <;> omega
  · rw [Int.tdiv_eq_ediv_of_nonneg (by omega), if_neg (fun h => hb h.1)]
    omega

theorem curNum_bytes : curNum Config.cfg ((b1 * 256 + b2 : Nat) : Int) = 240 * b1 + b2 := by
  rw [curNum_cfg, tdiv_bytes h2]
  omega

theorem voltNum_bytes :
    voltNum Config.cfg ((b1 * 256 + b2 : Nat) : Int) =
      if b1 < 20 ∧ b2 ≠ 0 then 240 * (b1 : Int) + b2 - 16 else 240 * (b1 : Int) + b2 := by
  rw [voltNum_cfg, tdiv_bytes_sub_vCorrBias h2]
  split <;> omega

end

/-! ### Sign and ranges (R92, R98) -/

/-- Only under high byte 0 can the low byte be less than the 16 that the rounding takes away. -/
theorem voltNum_neg_iff {r : Nat} (h : r < 65536) : voltNum Config.cfg r < 0 ↔ 1 ≤ r ∧ r ≤ 15 := by
  obtain ⟨b1, b2, -, h2, rfl⟩ := exists_bytes h
  rw [voltNum_bytes h2]
  split <;> omega

theorem tdiv_field_range {r : Nat} (h : r < 65536) : 0 ≤ Int.tdiv r 256 ∧ Int.tdiv r 256 ≤ 255 := by
  obtain ⟨b1, b2, h1, h2, rfl⟩ := exists_bytes h
  rw [tdiv_bytes h2]
  omega

theorem tdiv_sub_vCorrBias_range {r : Nat} (h : r < 65536) :
    -20 ≤ Int.tdiv ((r : Int) - 5120) 256 ∧ Int.tdiv ((r : Int) - 5120) 256 ≤ 235 := by
  obtain ⟨b1, b2, h1, h2, rfl⟩ := exists_bytes h
  rw [tdiv_bytes_sub_vCorrBias h2]
  split <;> omega

/-- Every width from 18 bits on holds the integers of 18 signed bits. -/
theorem toInt_ofInt_of_fits18 {w : Nat} (hw : 18 ≤ w) {x : Int} (h : -131072 ≤ x) (h' : x < 131072) :
    (BitVec.ofInt w x).toInt = x := by
  have hpow : (2 : Int) ^ 17 ≤ 2 ^ (w - 1) := pow_le_pow_right₀ (by decide) (by omega)
  exact BitVec.toInt_ofInt_eq_self (by omega) (by omega) (by omega)

/-! ### The exact values (R94, R95) -/

theorem current_anti_div {n : I32} (hn : 0 ≤ n.toInt) {d e : U16} (hd : d ≠ 0) (hde : d.toNat ≤ e.toNat) :
    current n e ≤ current n d := by
  have hpos : 0 < d.toNat := Nat.pos_of_ne_zero (fun h => hd (BitVec.eq_of_toNat_eq h))
  exact div_le_div_of_nonneg_left (Int.cast_nonneg hn) (Nat.cast_pos.mpr hpos) (Nat.cast_le.mpr hde)

/-- The rationals as the number format of the host's final division. -/
def ratFmt : FloatFmt Rat := ⟨fun x => (x : Rat), fun a b => a / b⟩

theorem hostVoltage_ratFmt (c : Cfg) (n : I32) : hostVoltage c ratFmt n = voltage c n := by
  simp only [hostVoltage, voltage, ratFmt, Int.cast_natCast]

theorem hostCurrent_ratFmt (n : I32) (d : U16) : hostCurrent ratFmt n d = current n d := by
  simp only [hostCurrent, current, ratFmt, Int.cast_natCast]

theorem voltage_latched {r : Nat} (h : r < 65536) :
    voltage Config.cfg (narrow Config.cfg (voltNum Config.cfg r)) =
      ((((r : Int) - 320) - Int.tdiv ((r : Int) - 5120) 256 * 16 : Int) : Rat) / 1000 := by
  rw [voltage, narrow_voltNum_toInt h, voltNum_cfg, cfg_voltDivisor, Nat.cast_ofNat]

theorem current_latched {r : Nat} (h : r < 65536) (d : U16) :
    current (narrow Config.cfg (curNum Config.cfg r)) d =
      (((r : Int) - Int.tdiv (r : Int) 256 * 16 : Int) : Rat) / (d.toNat : Rat) := by
  rw [current, narrow_curNum_toInt h, curNum_cfg]

/-! ### The obligations -/

/-- Settles O54: each quotient is the high byte up to its bias, so the field's weight 256 drops by 16. -/
theorem numeratorsHaveTheClosedForms : Obligations.NumeratorsHaveTheClosedForms := by
  unfold Obligations.NumeratorsHaveTheClosedForms
  exact fun b1 b2 _ h2 => ⟨curNum_bytes h2, voltNum_bytes h2⟩

/-- Settles O55: the ranges, the sign, the entries of R98's table, and the current by its nonnegative numerator. -/
theorem numeratorRangesAndShape : Obligations.NumeratorRangesAndShape := by
  unfold Obligations.NumeratorRangesAndShape
  refine ⟨fun r hr => ?_, by decide, by decide, by decide, by decide, by decide, by decide, by decide,
    by decide, by decide, by decide, fun r d e hr hd hde => ?_⟩
  · obtain ⟨hc0, hc1⟩ := curNum_range hr
    obtain ⟨hv0, hv1⟩ := voltNum_range hr
    exact ⟨hc0, hc1, hv0, hv1, voltNum_neg_iff hr⟩
  · have hnonneg : 0 ≤ (narrow Config.cfg (curNum Config.cfg r)).toInt := by
      rw [narrow_curNum_toInt hr]
      exact (curNum_range hr).1
    exact current_anti_div hnonneg hd hde

/-- Settles O56: by the ranges of the two quotients and of the two numerators all nine values are integers of 18 signed
bits. -/
theorem decoderNeverOverflows : Obligations.DecoderNeverOverflows := by
  unfold Obligations.DecoderNeverOverflows
  intro w r hw hr x hx
  obtain ⟨hq0, hq1⟩ := tdiv_field_range hr
  obtain ⟨hp0, hp1⟩ := tdiv_sub_vCorrBias_range hr
  obtain ⟨hc0, hc1⟩ := curNum_range hr
  obtain ⟨hv0, hv1⟩ := voltNum_range hr
  have hfits : -131072 ≤ x ∧ x < 131072 := by
    simp only [List.mem_cons, List.not_mem_nil, or_false] at hx
    rcases hx with rfl | rfl | rfl | rfl | rfl | rfl | rfl | rfl | rfl <;> omega
  exact toInt_ofInt_of_fits18 hw hfits.1 hfits.2

/-- Settles O57: over the rationals the host's division is the exact value, and the latched numerators are R90's and
R91's integers. -/
theorem exactFinalDivisionGivesTheMeasurement : Obligations.ExactFinalDivisionGivesTheMeasurement := by
  unfold Obligations.ExactFinalDivisionGivesTheMeasurement
  intro r q d hr hq _
  exact ⟨(hostVoltage_ratFmt _ _).trans (voltage_latched hr),
    (hostCurrent_ratFmt _ _).trans (current_latched hq d),
    hostVoltage_ratFmt _ _, hostCurrent_ratFmt _ _⟩

end Sys2Proof.Machine
end

section
/-! PROOFS. The exceptions (60_exceptions R100 to R121): every error is reported in the output of its event, the table
of transitions of `MODE`, and the return from `Terminated` by RST alone (R110; 70_reset_and_hazards R138). -/

namespace Sys2Proof.Machine

/-! ### What an output reports (R100, R108, R112) -/

/-- From `s` to `t` one output `o` is emitted; it tells how `MODE` and `ERR` change, which they do with it alone. -/
structure Reports (o : Output) (s t : State) : Prop where
  output : t.output = s.output ++ [o]
  fatal : ∀ e info, o = .fatal e info → s.mode = .running ∧ t.mode = .terminated ∧ t.err = e.err
  diag : ∀ a k, o = .diag a k → t.mode = s.mode ∧ t.err = .invalidChecksum
  meas : ∀ cur volt chk dv, o = .meas cur volt chk dv → t.mode = s.mode ∧ t.err = .noError
  isFatal_of_mode : t.mode ≠ s.mode → o.isFatal = true
  isVerdict_of_err : t.err ≠ s.err → o.isVerdict = true

theorem reports_none {s t : State} (hmode : t.mode = s.mode) (herr : t.err = s.err)
    (hout : t.output = s.output ++ [.none]) : Reports .none s t where
  output := hout
  fatal := nofun
  diag := nofun
  meas := nofun
  isFatal_of_mode h := absurd hmode h
  isVerdict_of_err h := absurd herr h

/-- An exception reports itself, whether it is taken at once or after a byte is stored. -/
theorem reports_raise (e : Exc) {s u : State} (hrun : s.mode = .running) (hmode : u.mode = s.mode)
    (hout : u.output = s.output) : Reports e.report s (raise e u) where
  output := by rw [raise_output, hout]
  fatal c info h := by
    refine ⟨hrun, ?_⟩
    cases e <;> cases h <;> exact ⟨rfl, rfl⟩
  diag a k h := by
    cases e <;> cases h
    exact ⟨hmode, rfl⟩
  meas cur volt chk dv h := absurd h (report_ne_meas e cur volt chk dv)
  isFatal_of_mode h := by
    cases e with
    | invalidChecksum => exact absurd hmode h
    | _ => rfl
  isVerdict_of_err _ := report_isVerdict e

theorem reports_delivered (c : Cfg) (rawCur rawVolt : Int) (chk d : Byte) (s : State) :
    Reports (.meas (narrow c (curNum c rawCur)) (narrow c (voltNum c rawVolt)) chk s.div) s
      (delivered c rawCur rawVolt chk (storeAndAdvance d s)) where
  output := rfl
  fatal := nofun
  diag := nofun
  meas _ _ _ _ _ := ⟨rfl, rfl⟩
  isFatal_of_mode h := absurd rfl h
  isVerdict_of_err _ := rfl

/-! ### The last byte of a frame (R105 to R107) -/

/-- The byte `d` that completes a frame gives the verdict `o`, which is the error that `ERR` then holds. -/
structure LastByteReport (d : Byte) (o : Output) (s t : State) : Prop where
  isVerdict : o.isVerdict = true
  chk : t.err = .invalidChecksum → ∃ k, readByte 17 s = .ok k ∧ o = .diag s.acc k
  start : t.err = .invalidStartByte → ∃ b, readByte 0 s = .ok b ∧ o = .fatal .invalidStartByte b
  stop : t.err = .invalidStopByte → o = .fatal .invalidStopByte d

section
variable {d : Byte} {s t : State} (hrun : s.mode = .running) (h : execRxb d s = .next t)
include hrun h

theorem verdict_of_execRxb (hc : s.cnt.val = 18) :
    verdict Config.cfg (storeAndAdvance d s) = .next t := by
  obtain ⟨hr, -⟩ := (execRxb_eq_next d s t).mp h
  have hstop : execRxb d s = verdict Config.cfg (storeAndAdvance d s) :=
    (execRxb_stop d s hc).trans
      (execUnder_rxbStop_live (c := Config.cfg) d ⟨hr, hrun⟩ ((formAt_stop _).mpr hc))
  exact hstop.symm.trans h

/-- Each row of the verdict reports itself with the bytes it read. -/
theorem lastByte_reports (hc : s.cnt.val = 18) : ∃ o, Reports o s t ∧ LastByteReport d o s t := by
  obtain ⟨b, h0, ⟨-, rfl⟩ | ⟨-, -, rfl⟩ | ⟨-, -, k, h17, ⟨-, rfl⟩ | ⟨-, rc, rv, -, -, rfl⟩⟩⟩ :=
    verdict_atStop hc (verdict_of_execRxb hrun h hc)
  · exact ⟨_, reports_raise _ hrun rfl rfl, rfl, nofun, fun _ => ⟨b, h0, rfl⟩, nofun⟩
  · exact ⟨_, reports_raise _ hrun rfl rfl, rfl, nofun, nofun, fun _ => rfl⟩
  · exact ⟨_, reports_raise _ hrun rfl rfl, rfl, fun _ => ⟨k, h17, rfl⟩, nofun, nofun⟩
  · exact ⟨_, reports_delivered Config.cfg rc rv k d s, rfl, nofun, nofun, nofun⟩

/-- A byte that does not complete a frame gives `None` and keeps `MODE` and `ERR`. -/
theorem earlierByte_reports (hc : s.cnt.val ≠ 18) : t.mode = s.mode ∧ Reports .none s t := by
  cases received_of_execRxb h hrun with
  | byteStored => exact ⟨rfl, reports_none rfl rfl rfl⟩
  | frameRejected h18 => exact absurd h18 hc
  | frameDelivered h18 => exact absurd h18 hc

/-- With both markers and the checksum right the frame was delivered, if the event completed at all. -/
theorem delivered_of_rightBytes (hc : s.cnt.val = 18) (h0 : readByte 0 s = .ok 0xFA) (hd : d = 0xF8)
    (h17 : readByte 17 s = .ok s.acc) : ∃ rawCur rawVolt : Nat,
      t = delivered Config.cfg rawCur rawVolt s.acc (storeAndAdvance d s) := by
  obtain ⟨b, hb, ⟨hne, -⟩ | ⟨-, hne, -⟩ | ⟨-, -, k, hk, hrow⟩⟩ :=
    verdict_atStop hc (verdict_of_execRxb hrun h hc)
  · cases hb.symm.trans h0
    exact absurd rfl hne
  · exact absurd hd hne
  · cases hk.symm.trans h17
    obtain ⟨hne, -⟩ | ⟨-, rc, rv, -, -, rfl⟩ := hrow
    · exact absurd rfl hne
    · exact ⟨rc, rv, rfl⟩

end

/-! ### Events by mode (R67, R121) -/

theorem Effect.event_terminated {i : Instr} {s t : State} (h : Effect i s t) (hev : isEvent i = true)
    (hi : i ≠ .rst) (hm : s.mode = .terminated) : t = emit .none s := by
  cases h with
  | reset hrst => exact absurd hrst hi
  | sent hinit => subst hinit; cases hev
  | ignored => rfl
  | failed _ hl => cases hm.symm.trans hl.2
  | received _ _ hl => cases hm.symm.trans hl.2

theorem exec_event_terminated_eq {i : Instr} {s t : State} (hev : isEvent i = true) (hi : i ≠ .rst)
    (hm : s.mode = .terminated) (h : exec i s = .next t) : t = emit .none s :=
  (effect_of_exec (by rintro p c rfl; cases hev) h).event_terminated hev hi hm

theorem exec_rxf_running {s t : State} (hm : s.mode = .running) (h : exec .rxf s = .next t) :
    t = raise (.transportError (receivedCount s)) s := by
  obtain ⟨-, ⟨-, rfl⟩ | ⟨hm', -⟩⟩ := (execRxf_eq_next s t).mp h
  · rfl
  · cases hm.symm.trans hm'

/-- The four rows of the table for the byte that completes a frame. -/
theorem lastByte_mode {d b k : Byte} {s t : State} (hm : s.mode = .running) (hc : s.cnt.val = 18)
    (h : execRxb d s = .next t) (h0 : readByte 0 s = .ok b) (h17 : readByte 17 s = .ok k) :
    (b = 0xFA → d = 0xF8 → s.acc = k → t.mode = .running ∧
      ∃ cur volt, t.output = s.output ++ [.meas cur volt k s.div]) ∧
    (b = 0xFA → d = 0xF8 → s.acc ≠ k → t.mode = .running ∧
      t.output = s.output ++ [.diag s.acc k]) ∧
    (b ≠ 0xFA → t.mode = .terminated ∧ t.output = s.output ++ [.fatal .invalidStartByte b]) ∧
    (b = 0xFA → d ≠ 0xF8 → t.mode = .terminated ∧
      t.output = s.output ++ [.fatal .invalidStopByte d]) := by
  obtain ⟨hr, -⟩ := (execRxb_eq_next d s t).mp h
  have hl : Live s := ⟨hr, hm⟩
  refine ⟨?_, ?_, fun hb => ?_, ?_⟩
  · rintro rfl hd rfl
    obtain ⟨rc, rv, rfl⟩ := delivered_of_rightBytes hm h hc h0 hd h17
    exact ⟨hm, _, _, rfl⟩
  · rintro rfl rfl hk
    cases (completes_of_chk_ne hl hc h0 h17 hk).rxb.symm.trans h
    exact ⟨hm, rfl⟩
  · cases (completes_of_start_ne hl hc h0 hb).rxb.symm.trans h
    exact ⟨rfl, rfl⟩
  · rintro rfl hd
    cases (completes_of_stop_ne hl hc h0 hd).rxb.symm.trans h
    exact ⟨rfl, rfl⟩

/-! ### The obligations -/

/-- Settles O38: an event in `Terminated`, IDLE and a byte before the last report nothing and change nothing; RXF raises
its exception, and the last byte has its row of the verdict. -/
theorem everyErrorIsReported : Obligations.EveryErrorIsReported := by
  unfold Obligations.EveryErrorIsReported
  intro i s t hev hi h
  suffices hrep : ∃ o, Reports o s t ∧
      (s.mode = .running → i = .rxf → o = .fatal .transportError (receivedCount s)) ∧
      (∀ d, byteOf i = some d → s.mode = .running → s.cnt = 18 → LastByteReport d o s t) by
    obtain ⟨o, hrep, hrxf, hlast⟩ := hrep
    refine ⟨o, hrep.output, hrep.fatal, hrep.diag, hrep.meas, hrep.isFatal_of_mode,
      hrep.isVerdict_of_err, hrxf, fun d hd hm hc => ?_⟩
    obtain ⟨hverdict, hchk, hstart, hstop⟩ := hlast d hd hm hc
    exact ⟨hverdict, hchk, hstart, hstop⟩
  cases hm : s.mode with
  | terminated =>
    cases exec_event_terminated_eq hev hi hm h
    exact ⟨.none, reports_none rfl rfl rfl, nofun, nofun⟩
  | running =>
    rcases isEvent_cases hev with rfl | rfl | rfl | ⟨d, hd⟩
    · exact absurd rfl hi
    · obtain ⟨-, rfl⟩ := (execIdle_eq_next s t).mp h
      exact ⟨.none, reports_none rfl rfl rfl, nofun, nofun⟩
    · cases exec_rxf_running hm h
      exact ⟨_, reports_raise _ hm rfl rfl, fun _ _ => rfl, nofun⟩
    · have hbyte := byteEvent_eq_next hd h
      have hnotRxf : i ≠ .rxf := by rintro rfl; cases hd
      by_cases hc : s.cnt.val = 18
      · obtain ⟨o, hrep, hlast⟩ := lastByte_reports hm hbyte hc
        refine ⟨o, hrep, fun _ hrxf => absurd hrxf hnotRxf, fun d' hd' _ _ => ?_⟩
        cases hd.symm.trans hd'
        exact hlast
      · exact ⟨.none, (earlierByte_reports hm hbyte hc).2, fun _ hrxf => absurd hrxf hnotRxf,
          fun _ _ _ h18 => absurd (congrArg Fin.val h18) hc⟩

/-- Settles O37: row by row; the last byte of a frame has the four rows of `lastByte_mode`. -/
theorem modeTransitionsAreTheTable : Obligations.ModeTransitionsAreTheTable := by
  unfold Obligations.ModeTransitionsAreTheTable
  intro i s t h
  refine ⟨?_, ?_, ?_, fun d hd hm => ⟨fun hc => ?_, fun hc b k h0 h17 => ?_⟩, fun hm hev hi => ?_⟩
  · rintro rfl
    obtain ⟨-, rfl⟩ := (execRst_eq_next s t).mp h
    exact ⟨rfl, rfl⟩
  · rintro hm rfl
    obtain ⟨-, rfl⟩ := (execIdle_eq_next s t).mp h
    exact ⟨hm, rfl⟩
  · rintro hm rfl
    cases exec_rxf_running hm h
    exact ⟨rfl, _, rfl⟩
  · obtain ⟨hmode, hrep⟩ := earlierByte_reports hm (byteEvent_eq_next hd h) hc
    exact ⟨hmode.trans hm, hrep.output⟩
  · exact lastByte_mode hm hc (byteEvent_eq_next hd h) h0 h17
  · cases exec_event_terminated_eq hev hi hm h
    exact ⟨hm, rfl⟩

/-- Settles O36: of all operations only RST leaves `Terminated`, and the empty input is IDLE. -/
theorem onlyResetLeavesTerminatedInAStep : Obligations.OnlyResetLeavesTerminatedInAStep := by
  unfold Obligations.OnlyResetLeavesTerminatedInAStep
  intro s t hm hstep hrun
  obtain ⟨i, hdecode, hexec⟩ := (step_eq_next s t).mp hstep
  have isRst : (fetch s).2.mode = .terminated → i = .rst := fun hm' => by
    by_contra hi
    cases (exec_terminated hexec hi hm').1.symm.trans hrun
  cases hinput : s.input with
  | nil =>
    rw [fetch_nil s hinput] at hdecode isRst
    cases isRst hm
    cases hdecode
  | cons x xs =>
    rw [fetch_cons s x xs hinput] at hdecode hexec isRst
    cases isRst hm
    obtain ⟨hdiv, rfl⟩ := (execRst_eq_next _ t).mp hexec
    exact ⟨x, xs, rfl, hdecode, rfl, hdiv⟩

/-- Settles O15: in `Running` RXF is the exception `TransportError`, which is fatal. -/
theorem transportFailureEndsTheSession : Obligations.TransportFailureEndsTheSession := by
  unfold Obligations.TransportFailureEndsTheSession
  intro s hl
  exact ⟨_, (execRxf_eq_next s _).mpr ⟨hl.1, .inl ⟨hl.2, rfl⟩⟩, changesOnly_raise _ s, fun _ _ => rfl,
    rfl, rfl, rfl, rfl⟩

end Sys2Proof.Machine
end

section
/-! PROOFS. The start of a run (70_reset_and_hazards R123): before the first RST the gate of every event refuses, and
with it every operation but RST and the host's INIT. -/

namespace Sys2Proof.Machine

section
variable {s : State} (hr : s.rstSeen = false)
include hr

theorem onForm_unseen (cfg : Cfg) (f : Form) (body : Result) :
    onForm cfg f s body = .refused .notReset :=
  afterReset_unseen s _ hr

/-- Whichever form `CNT` selects, its gate refuses the byte. -/
theorem execRxb_unseen (d : Byte) : execRxb d s = .refused .notReset := by
  unfold execRxb execRxbUnder
  split <;> exact onForm_unseen hr _ _ _

/-- A sequence of bytes is refused at its first byte. -/
theorem receiveAll_cons_unseen (b : Byte) (bs : List Byte) :
    receiveAll Config.cfg (b :: bs) s = .refused .notReset := by
  rw [receiveAll_cons, execRxb_unseen hr b, andThen_refused]

end

/-- Settles O17: every operation but RST and INIT passes the gate `afterReset`, a FRAME with its start byte. -/
theorem nothingRunsBeforeTheFirstReset : Obligations.NothingRunsBeforeTheFirstReset := by
  unfold Obligations.NothingRunsBeforeTheFirstReset
  intro i s hr hrst hinit
  cases i with
  | rst => exact absurd rfl hrst
  | rxf => exact afterReset_unseen s _ hr
  | rxb d => exact execRxb_unseen hr d
  | idle => exact afterReset_unseen s _ hr
  | rxbStart d => exact onForm_unseen hr _ _ _
  | rxbPay d => exact onForm_unseen hr _ _ _
  | rxbChk d => exact onForm_unseen hr _ _ _
  | rxbStop d => exact onForm_unseen hr _ _ _
  | frame p c => exact receiveAll_cons_unseen hr _ _
  | init => exact absurd rfl hinit

end Sys2Proof.Machine
end
